-- ==== Sys2Proof/Word.lean ====
section
/-! DEFINITION. The widths the spec fixes (R7) and the bit-vector names used everywhere.
Rules: 00_scope.md R7, R8. -/

namespace Sys2Proof

/-- A bus address, a status byte, every frame byte and the checksum byte: 8 bits (R7). -/
abbrev Byte := BitVec 8

/-- A command word, a host data word, a counter: 32 bits (R7). -/
abbrev Word := BitVec 32

/-- A host address: 16 bits (R7, R70). -/
abbrev HostAddr := BitVec 16

/-- A time in milliseconds: 64 bits (R7, R50). -/
abbrev Time := BitVec 64

/-- A slot number as a command word's SLOT field holds it: 5 bits (R102). -/
abbrev SlotId := BitVec 5

end Sys2Proof
end

