-- ==== Sys2Proof/Config.lean ====
section
/-! DEFINITION. What a build of the block fixes (the parameter record of 00_scope.md R6), the
protocol constants (R6, D2), and the one free value of the spec: what a buffer byte that nothing
has written since reset reads as (R49, 93_implementation_defined.md I8). -/

namespace Sys2Proof

/-- PARITY of the line profile, as PARAM3 encodes it (R46: 0 none, 1 odd, 2 even, 3 never). -/
inductive Parity where
  | none | odd | even
deriving DecidableEq, Repr

/-- STOP_BITS of the line profile (R46: 1 or 2). -/
inductive StopBits where
  | one | two
deriving DecidableEq, Repr

/-- The build parameters of R6, each with DOC0's value as its default. "A model takes the parameter
record as an argument" (R6): `Machine.State` carries one record, which no step changes, so a
statement about every state is a statement about every build (DESIGN CHOICE, log entry 8). -/
structure Params where
  /-- TX_CAP: transmit buffer capacity in bytes. -/
  txCap : Nat := 2200
  /-- RX_CAP: receive buffer capacity in bytes. -/
  rxCap : Nat := 255
  /-- MAX_SLOTS: number of device slots. -/
  maxSlots : Nat := 32
  /-- SETTLE_MS: from the send's answer to the receive. -/
  settleMs : BitVec 16 := 485
  /-- RX_TIMEOUT_MS: read timeout of one receive. -/
  rxTimeoutMs : BitVec 16 := 100
  /-- PACE_MS: pacing delay after each device in a scan. -/
  paceMs : BitVec 16 := 100
  /-- POLL_MS: poll interval of the minimum-delay wait. -/
  pollMs : BitVec 16 := 250
  /-- MAX_RETRIES_RESET: reset value of MAX_RETRIES. -/
  maxRetriesReset : BitVec 8 := 25
  /-- BAUD: line rate passed to the transport at open. -/
  baud : BitVec 24 := 19200
  /-- DATA_BITS of the line profile. -/
  dataBits : BitVec 4 := 8
  /-- PARITY of the line profile. -/
  parity : Parity := .none
  /-- STOP_BITS of the line profile. -/
  stopBits : StopBits := .one
  /-- CMDBUF_CAP: capacity of each command-payload buffer. -/
  cmdBufCap : Nat := 4096
  /-- LOG_DEPTH: depth of the event log FIFO. -/
  logDepth : Nat := 16
  /-- SN_STATUS_SIGNED: serial-number statuses 0x80..0xFF fail (R210). -/
  snStatusSigned : Bool := false
deriving DecidableEq, Repr

/-- The build with DOC0's values (R6). -/
def Params.default : Params := {}

/-- The ranges R6 gives the parameters. The timing ranges 0..65535 are the fields' widths. -/
def Params.wf (p : Params) : Bool :=
  decide (4 ≤ p.txCap ∧ p.txCap ≤ 4096 ∧ 1 ≤ p.rxCap ∧ p.rxCap ≤ 256 ∧ 1 ≤ p.maxSlots ∧
    p.maxSlots ≤ 32 ∧ 1 ≤ p.cmdBufCap ∧ p.cmdBufCap ≤ 4096 ∧ 1 ≤ p.logDepth ∧ p.logDepth ≤ 255)

namespace Config

/-- ETX, the end-of-text marker (R6, R110). -/
def etx : Byte := 0x03

/-- ACK, the positive acknowledgment status (R6, R112). -/
def ack : Byte := 0x06

/-- NAK, the negative acknowledgment status (R6, R112). -/
def nak : Byte := 0x15

/-- ADDR_MARK, the marker bit ORed into the request address byte (R6, R110). -/
def addrMark : Byte := 0x80

/-- The constant the ID register reads (R2, R23). -/
def idWord : Word := 0x58435601

/-- FREE VALUE (DESIGN CHOICE of its form, log entry 1): what the buffer byte at a host address reads as while nothing has
written it since reset number `epoch`. R49 and I8: "an unconstrained draw, fixed until written". It
has no body: nothing can be proved of its value. -/
opaque unwrittenByte (epoch addr : Nat) : Byte

end Config

end Sys2Proof
end

