-- ==== Sys2Proof/Syntax.lean ====
section
/-! DEFINITION. The command set: one constructor of `Instr` per row of spec/opcode_table.json
(30_encoding.md R104), each operand at exactly the width its field has in the word (R102). -/

namespace Sys2Proof

/-- KIND of a command: 0 serial-number (CMDBUF0/CMDLEN0), 1 measurement (CMDBUF1/CMDLEN1) (R102). -/
inductive Kind where
  | sn | meas
deriving DecidableEq, Repr

/-- The KIND bit of a command word, of ERR and of an event word (R102, R29, R306). -/
def Kind.bit : Kind → BitVec 1
  | .sn => 0#1
  | .meas => 1#1

/-- The 15 host commands of R104. -/
inductive Instr where
  /-- ENCODE k, a: build a request frame into TXBUF (R130). -/
  | encode (k : Kind) (a : Byte)
  /-- VERIFY: XOR check of RXBUF (R132). -/
  | verify
  /-- DECODE: verify and unpack RXBUF (R133). -/
  | decode
  /-- OPEN: open the transport (R160). -/
  | openTp
  /-- CLOSE: close the transport (R161). -/
  | closeTp
  /-- SEND: hand the frame in TXBUF to the transport (R162). -/
  | send
  /-- RECV: one receive into RXBUF (R163). -/
  | recv
  /-- FLUSH: dummy receive (R167). -/
  | flush
  /-- QUERY k, sl: one device-session exchange (R168). -/
  | query (k : Kind) (sl : SlotId)
  /-- TRANSACT.SN sl: serial-number query with retries (R200). -/
  | transactSn (sl : SlotId)
  /-- TRANSACT.MEAS sl: measurement query with retries (R201). -/
  | transactMeas (sl : SlotId)
  /-- SCAN_START: start the scan scheduler (R230). -/
  | scanStart
  /-- SHUTDOWN: stop the block until reset (R272). -/
  | shutdown
  /-- RESULT_ACK c: the host's persistence answer (R246). -/
  | resultAck (c : Byte)
  /-- DELAY ms: wait a number of milliseconds (R270). -/
  | delay (ms : BitVec 24)
deriving DecidableEq, Repr

end Sys2Proof
end

