-- ==== Sys2Proof/WellFormed.lean ====
section
/-! DEFINITION. Which operands spell a command word (30_encoding.md R120). A line of assembler text
names its operands by numbers of any size; `Line` is that line, `Line.wellFormed` the range checks
of R120, and `Line.assemble` the refusal: "An operand out of range spells no command word; an
assembler must refuse it rather than truncate". An `Instr` holds each operand at its field's width,
so every `Instr` comes from a well-formed line (`Instr.wellFormed`, proved in Laws/Encoding.lean). -/

namespace Sys2Proof

/-- One line of the assembler syntax of R120, its numeric operands not yet checked. -/
inductive Line where
  | encode (k : Kind) (addr : Nat)
  | verify
  | decode
  | openTp
  | closeTp
  | send
  | recv
  | flush
  | query (k : Kind) (slot : Nat)
  | transactSn (slot : Nat)
  | transactMeas (slot : Nat)
  | scanStart
  | shutdown
  | resultAck (code : Nat)
  | delay (ms : Nat)
deriving DecidableEq, Repr

/-- The operand ranges of R120: addr 0..255, slot 0..31, code 0..255, ms 0..16777215. -/
def Line.wellFormed : Line → Bool
  | .encode _ addr => decide (addr < 256)
  | .query _ slot => decide (slot < 32)
  | .transactSn slot => decide (slot < 32)
  | .transactMeas slot => decide (slot < 32)
  | .resultAck code => decide (code < 256)
  | .delay ms => decide (ms < 16777216)
  | .verify => true
  | .decode => true
  | .openTp => true
  | .closeTp => true
  | .send => true
  | .recv => true
  | .flush => true
  | .scanStart => true
  | .shutdown => true

/-- The command a line spells, its operands taken at their fields' widths (R102). -/
def Line.toInstr : Line → Instr
  | .encode k addr => .encode k (BitVec.ofNat 8 addr)
  | .verify => .verify
  | .decode => .decode
  | .openTp => .openTp
  | .closeTp => .closeTp
  | .send => .send
  | .recv => .recv
  | .flush => .flush
  | .query k slot => .query k (BitVec.ofNat 5 slot)
  | .transactSn slot => .transactSn (BitVec.ofNat 5 slot)
  | .transactMeas slot => .transactMeas (BitVec.ofNat 5 slot)
  | .scanStart => .scanStart
  | .shutdown => .shutdown
  | .resultAck code => .resultAck (BitVec.ofNat 8 code)
  | .delay ms => .delay (BitVec.ofNat 24 ms)

/-- R120: the assembler refuses an operand out of range. -/
def Line.assemble (l : Line) : Option Instr :=
  if l.wellFormed then some l.toInstr else none

/-- The line that spells a command. -/
def Instr.line : Instr → Line
  | .encode k a => .encode k a.toNat
  | .verify => .verify
  | .decode => .decode
  | .openTp => .openTp
  | .closeTp => .closeTp
  | .send => .send
  | .recv => .recv
  | .flush => .flush
  | .query k sl => .query k sl.toNat
  | .transactSn sl => .transactSn sl.toNat
  | .transactMeas sl => .transactMeas sl.toNat
  | .scanStart => .scanStart
  | .shutdown => .shutdown
  | .resultAck c => .resultAck c.toNat
  | .delay ms => .delay ms.toNat

/-- A command is well formed when its operands are in the ranges of R120. -/
def Instr.wellFormed (i : Instr) : Bool := i.line.wellFormed

end Sys2Proof
end

