-- ==== Sys2Proof/Decode.lean ====
section
/-! DEFINITION. Decoding and encoding of command words (30_encoding.md R101 to R105): the command
map of R104 as a table of masks and matches, the operand fields of R102, the decoder that finds the
row a word satisfies (R103), and the encoder, built field by field from the formats of R101. -/

namespace Sys2Proof

/-- Why a word is no command. R105 rejects the first two with the one code IllegalCommand. -/
inductive DecodeError where
  /-- OP is 0x00 or 0x0F..0xFF (R105). -/
  | reservedOp (op : Byte)
  /-- OP is listed, but a bit outside the format's free fields is nonzero (R105). -/
  | mustBeZero (op : Byte)
  /-- Not four bytes: "Every command word is exactly 32 bits" (R103). -/
  | wrongLength (n : Nat)
deriving DecidableEq, Repr

/-- OP, bits [7:0] (R102). -/
def fieldOp (w : Word) : Byte := w.extractLsb' 0 8

/-- ADDR, bits [15:8] (R102). -/
def fieldAddr (w : Word) : Byte := w.extractLsb' 8 8

/-- CODE, bits [15:8] (R102). -/
def fieldCode (w : Word) : Byte := w.extractLsb' 8 8

/-- SLOT, bits [20:16] (R102). -/
def fieldSlot (w : Word) : SlotId := w.extractLsb' 16 5

/-- KIND, bit 24 (R102). -/
def fieldKind (w : Word) : Kind := if w.getLsbD 24 then .meas else .sn

/-- MS, bits [31:8] (R101, R102). -/
def fieldMs (w : Word) : BitVec 24 := w.extractLsb' 8 24

/-- One row of the command map: the bits that are fixed, their values, and the command the row's
free fields spell. -/
structure Row where
  mask : Word
  pattern : Word
  build : Word → Instr

/-- Whether a word satisfies a row (R103). -/
def Row.fits (r : Row) (w : Word) : Bool := w &&& r.mask == r.pattern

/-- The command map of R104, in its order. -/
def rows : List Row :=
  [ ⟨0xFEFF00FF, 0x00000001, fun w => .encode (fieldKind w) (fieldAddr w)⟩,
    ⟨0xFFFFFFFF, 0x00000002, fun _ => .verify⟩,
    ⟨0xFFFFFFFF, 0x00000003, fun _ => .decode⟩,
    ⟨0xFFFFFFFF, 0x00000004, fun _ => .openTp⟩,
    ⟨0xFFFFFFFF, 0x00000005, fun _ => .closeTp⟩,
    ⟨0xFFFFFFFF, 0x00000006, fun _ => .send⟩,
    ⟨0xFFFFFFFF, 0x00000007, fun _ => .recv⟩,
    ⟨0xFFFFFFFF, 0x00000008, fun _ => .flush⟩,
    ⟨0xFEE0FFFF, 0x00000009, fun w => .query (fieldKind w) (fieldSlot w)⟩,
    ⟨0xFFE0FFFF, 0x0000000A, fun w => .transactSn (fieldSlot w)⟩,
    ⟨0xFFE0FFFF, 0x0100000A, fun w => .transactMeas (fieldSlot w)⟩,
    ⟨0xFFFFFFFF, 0x0000000B, fun _ => .scanStart⟩,
    ⟨0xFFFFFFFF, 0x0000000C, fun _ => .shutdown⟩,
    ⟨0xFFFF00FF, 0x0000000D, fun w => .resultAck (fieldCode w)⟩,
    ⟨0x000000FF, 0x0000000E, fun w => .delay (fieldMs w)⟩ ]

/-- R103: a word is decoded by finding the row whose mask and match it satisfies. R105: a word with
no row is refused, by name. -/
def decode (w : Word) : Except DecodeError Instr :=
  match rows.find? (fun r => r.fits w) with
  | some r => .ok (r.build w)
  | none =>
    if fieldOp w == 0x00#8 || (0x0F#8).ule (fieldOp w) then .error (.reservedOp (fieldOp w))
    else .error (.mustBeZero (fieldOp w))

/-- Four bytes as the host space holds them, lowest address first, make a word (R75). -/
def wordOfBytes (b0 b1 b2 b3 : Byte) : Word := b3 ++ b2 ++ b1 ++ b0

/-- The decoder over bytes: a command word is exactly four bytes (R103), little-endian (R75). -/
def decodeBytes : List Byte → Except DecodeError Instr
  | [b0, b1, b2, b3] => decode (wordOfBytes b0 b1 b2 b3)
  | bs => .error (.wrongLength bs.length)

/-- The word of a command, field by field from the formats C0, CA, CS, CC and CD of R101 and the
opcodes of R104. -/
def encode : Instr → Word
  | .encode k a => 0#7 ++ k.bit ++ 0#8 ++ a ++ 0x01#8
  | .verify => 0#24 ++ 0x02#8
  | .decode => 0#24 ++ 0x03#8
  | .openTp => 0#24 ++ 0x04#8
  | .closeTp => 0#24 ++ 0x05#8
  | .send => 0#24 ++ 0x06#8
  | .recv => 0#24 ++ 0x07#8
  | .flush => 0#24 ++ 0x08#8
  | .query k sl => 0#7 ++ k.bit ++ 0#3 ++ sl ++ 0#8 ++ 0x09#8
  | .transactSn sl => 0#7 ++ 0#1 ++ 0#3 ++ sl ++ 0#8 ++ 0x0A#8
  | .transactMeas sl => 0#7 ++ 1#1 ++ 0#3 ++ sl ++ 0#8 ++ 0x0A#8
  | .scanStart => 0#24 ++ 0x0B#8
  | .shutdown => 0#24 ++ 0x0C#8
  | .resultAck c => 0#16 ++ c ++ 0x0D#8
  | .delay ms => ms ++ 0x0E#8

/-- The bytes of a command word in host order (R75). -/
def encodeBytes (i : Instr) : List Byte :=
  [(encode i).extractLsb' 0 8, (encode i).extractLsb' 8 8, (encode i).extractLsb' 16 8,
    (encode i).extractLsb' 24 8]

/-- OP of a command's word, what REJ records (R30, R303). -/
def opOf (i : Instr) : Byte := fieldOp (encode i)

/-- The decoder on a word numbered as spec/opcode_table.json numbers its bits, the bits from
`nbits` up being 0. -/
def decodeTableWord (nbits w : Nat) : Option Instr :=
  let v := w % 2 ^ nbits
  if v < 2 ^ 32 then
    match decodeBytes [BitVec.ofNat 8 v, BitVec.ofNat 8 (v / 256), BitVec.ofNat 8 (v / 65536),
        BitVec.ofNat 8 (v / 16777216)] with
    | .ok i => some i
    | .error _ => none
  else none

end Sys2Proof
end

