-- ==== Sys2Proof/Machine/State.lean ====
section
/-! DEFINITION. The state of the block (10_state.md), plain data, and its reset (70_reset_and_hazards.md
R340). The registers whose bits are other state (STATUS, EVT_COUNT, PARAM0..5, ID) are computed from
that state in Machine/Flags.lean, not stored twice. -/

namespace Sys2Proof.Machine

/-- ENG, the engine mode (R21). STATUS.BUSY, SCHED_ACTIVE and HALTED are ENG = CMD, SCHED, HALTED
(R26). -/
inductive Eng where
  | ready | cmd | sched | halted
deriving DecidableEq, Repr

/-- RSTATE, the retry state (R27). The encodings never produced have no constructor (I6, log entry
16). -/
inductive RState where
  | none | attempting | succeeded | naked | failed | exhausted
deriving DecidableEq, Repr

/-- SSTATE, the scheduler state (R28). -/
inductive SState where
  | off | idle | waiting | scanning | writing | complete | halted
deriving DecidableEq, Repr

/-- The error codes of R301, in the table's order. -/
inductive Code where
  | none | encodingOverflow | emptyResponse | timeoutError | checksumMismatch
  | negativeAcknowledge | unexpectedStatus | sendFailure | retriesExhausted
  | transportOpenFailure | persistenceFailure | transportStateError | illegalCommand | busy
  | configError | noFrame | noRecordPending | halted
deriving DecidableEq, Repr

/-- ERR: the result of the last completed run command (R29). -/
structure ErrReg where
  code : Code
  last : Code
  slot : SlotId
  kind : Kind
deriving DecidableEq, Repr

/-- REJ: the last rejected command word's code and OP (R30). -/
structure RejReg where
  code : Code
  op : Byte
deriving DecidableEq, Repr

/-- CHK: the checksum last computed and the one last received (R32). -/
structure ChkReg where
  /-- CALC, bits [7:0]. -/
  calcd : Byte
  /-- RCVD, bits [15:8]. -/
  rcvd : Byte
deriving DecidableEq, Repr

/-- One device slot of the slot file (R47). -/
structure Slot where
  /-- ADDR_TABLE[s]: the bus address. -/
  addr : Byte := 0
  /-- SENT: successful sends. -/
  sent : Word := 0
  /-- RECV: successful decodes. -/
  recv : Word := 0
  /-- NAKC: NAK responses counted. -/
  nakc : Word := 0
  /-- RETRY.SN_ATT: attempts of the last serial-number TRANSACT. -/
  snAtt : Byte := 0
  /-- RETRY.MEAS_ATT: attempts of the last measurement TRANSACT. -/
  measAtt : Byte := 0
  /-- RETRY.SN_RSTATE: final state of the last serial-number TRANSACT. -/
  snRState : RState := .none
  /-- RETRY.MEAS_RSTATE: final state of the last measurement TRANSACT. -/
  measRState : RState := .none
  /-- TS: NOW at the last successful measurement. -/
  ts : Time := 0
  /-- SN_LEN: length of SERIAL[s]. -/
  snLen : Byte := 0
  /-- VAL_LEN: length of VALUE[s]. -/
  valLen : Byte := 0
deriving DecidableEq, Repr

/-- A request the engine hands to the transport (R164). -/
inductive TpReq where
  | openLine (baud : BitVec 24) (dataBits : BitVec 4) (parity : Parity) (stopBits : StopBits)
  | sendBytes (bytes : List Byte)
  | recvBytes (cap : Nat) (timeoutMs : BitVec 16)
  | closeLine
deriving DecidableEq, Repr

/-- A request that waits for its answer, with the number that identifies it: "an answer is matched
to the one outstanding request" (R89). -/
structure Outstanding where
  tag : Nat
  req : TpReq
deriving DecidableEq, Repr

/-- What the transport answers (R164): Ok or Fail to open and send, Bytes or Timeout to recv. -/
inductive TpAnswer where
  | ok
  | fail
  | bytes (b : List Byte)
  | timeout
deriving DecidableEq, Repr

/-- What has ended the engine's suspension (R11), before the engine has stepped on. -/
inductive Resume where
  /-- a run command was accepted (R100) -/
  | go
  /-- a timebase step reached the sleep's deadline (R11) -/
  | woke
  /-- the transport answered (R164) -/
  | answered (a : TpAnswer)
  /-- the timebase step that made NOW = RX_DEADLINE ended the receive (R166) -/
  | deadline
  /-- the host issued RESULT_ACK (R246) -/
  | ack (c : Byte)
deriving DecidableEq, Repr

/-- Who runs a Transact: the host's command or the scheduler (R307). -/
inductive Owner where
  | host | scan
deriving DecidableEq, Repr

/-- The activation a `Query` (R169) runs in: the QUERY command (R168), or an attempt of a Transact
(R202). -/
inductive Task where
  | query (k : Kind) (sl : SlotId)
  | transact (k : Kind) (sl : SlotId) (o : Owner)
deriving DecidableEq, Repr

/-- The engine continuation (R60): the suspension point of R11 at which the pseudocode of the
running command or of the scheduler stands. -/
inductive Cont where
  /-- empty: ENG is READY or HALTED -/
  | none
  /-- an accepted run command before its first engine step (R100) -/
  | start (i : Instr)
  /-- OPEN at tp_call(open) (R160) -/
  | openAns
  /-- SEND at tp_call(send) (R162) -/
  | sendAns
  /-- RECV in Receive (R163) -/
  | recvAns
  /-- FLUSH in Receive (R167) -/
  | flushAns
  /-- DELAY in sleep(MS) (R270) -/
  | delaying
  /-- Query at tp_call(send) (R169) -/
  | querySend (t : Task)
  /-- Query in sleep(SETTLE_MS) (R169) -/
  | querySettle (t : Task)
  /-- Query in Receive (R169) -/
  | queryRecv (t : Task)
  /-- scheduler, WAITING, in sleep(POLL_MS) (R233) -/
  | schedPoll
  /-- scheduler at tp_call(open) (R234) -/
  | schedOpen
  /-- scheduler, after an open failure, in sleep(POLL_MS) (R235) -/
  | schedBackoff
  /-- scheduler in the dummy Receive (R237) -/
  | schedFlush
  /-- scheduler in sleep(PACE_MS) after slot CUR_SLOT (R239) -/
  | schedPace
  /-- scheduler in wait_ack() (R240) -/
  | schedAck
  /-- halt_idle: no further engine step (R242) -/
  | haltIdle
  /-- inside an engine step that never ends: the wait loop of R233 with POLL_MS = 0 (log entry 9) -/
  | spin
deriving DecidableEq, Repr

/-- The widths of a host access (R70). -/
inductive Width where
  | byte | half | word
deriving DecidableEq, Repr

/-- One atomic step of an agent other than the engine (R5, R11): a host access, a timebase tick, a
transport answer, or the assertion of reset (R341). -/
inductive Event where
  | read (addr : HostAddr) (w : Width)
  | write (addr : HostAddr) (w : Width) (v : Word)
  | tick
  | answer (tag : Nat) (a : TpAnswer)
  | reset
deriving DecidableEq, Repr

/-- One entry of the schedule: an agent's step, and whether yet another agent's step comes after it
before the engine steps (`defer`). R85 gives one total order and R311 admits every interleaving, so
the order is a draw, written down here (log entry 3). -/
structure Move where
  event : Event
  defer : Bool := false
deriving DecidableEq, Repr

/-- The bytes of the buffers (R49) by host address: only the bytes written since reset are listed,
addresses strictly rising. A byte not listed holds no value of its own: it reads as the free value
`Config.unwrittenByte` (log entry 1). -/
abbrev Memory := List Host.Cell

/-- The canonical form: addresses strictly rising. No listed byte can equal what an unlisted address
holds, since an unlisted address holds none. -/
def Memory.wf : List Host.Cell → Bool
  | [] => true
  | [_] => true
  | x :: y :: r => decide (x.1 < y.1) && Memory.wf (y :: r)

/-- The state of the block. The fields from `epoch` on are the model's own (INVENTORY.md). -/
structure State where
  /-- The build parameters (R6, R46). No step changes them. -/
  params : Params
  /-- ENG (R21). -/
  eng : Eng
  /-- The engine continuation (R60). -/
  cont : Cont
  /-- What has ended the suspension, if the engine is runnable (R60). -/
  resume : Option Resume
  /-- The sleep deadline (R11, R51). -/
  sleepUntil : Option Time
  /-- The outstanding transport request (R22, R51). -/
  tpReq : Option Outstanding
  /-- RX_DEADLINE (R165, R51). -/
  rxDeadline : Option Time
  /-- STATUS.TP_OPEN (R26). -/
  tpOpen : Bool
  /-- STATUS.TX_VALID (R26). -/
  txValid : Bool
  /-- STATUS.REC_PEND (R26). -/
  recPend : Bool
  /-- STATUS.LAST_VALID (R26). -/
  lastValid : Bool
  /-- STATUS.UNBOUNDED (R26). -/
  unbounded : Bool
  /-- STATUS.RSTATE (R27). -/
  rstate : RState
  /-- STATUS.SSTATE (R28). -/
  sstate : SState
  /-- STATUS.CUR_SLOT (R26). -/
  curSlot : SlotId
  /-- STATUS.ATTEMPTS (R26). -/
  attempts : Byte
  /-- ERR (R29). -/
  err : ErrReg
  /-- REJ (R30). -/
  rej : RejReg
  /-- IRQ_PEND[5:0] (R31). -/
  irqPend : BitVec 6
  /-- IRQ_EN[5:0] (R31). -/
  irqEn : BitVec 6
  /-- CHK (R32). -/
  chk : ChkReg
  /-- NOW (R33, R50). -/
  now : Time
  /-- NOW_HI_SH (R33). -/
  nowHiSh : Word
  /-- LAST_SCAN (R34). -/
  lastScan : Time
  /-- LAST_HI_SH (R34). -/
  lastHiSh : Word
  /-- MAX_RETRIES (R35). -/
  maxRetries : Byte
  /-- MIN_SCAN_DELAY (R36). -/
  minScanDelay : Word
  /-- SCAN_COUNT (R37). -/
  scanCount : Word
  /-- REMAINING (R38). -/
  remaining : Word
  /-- NUM_ADDR (R39). -/
  numAddr : BitVec 6
  /-- CMDLEN0 (R40). -/
  cmdLen0 : BitVec 16
  /-- CMDLEN1 (R40). -/
  cmdLen1 : BitVec 16
  /-- TX_LEN (R41). -/
  txLen : BitVec 16
  /-- RX_LEN (R41). -/
  rxLen : BitVec 9
  /-- RESP_STATUS (R42). -/
  respStatus : Byte
  /-- RESULT_LEN (R42). -/
  resultLen : Byte
  /-- FRESH (R43). -/
  fresh : Word
  /-- REC_SLOT (R43). -/
  recSlot : SlotId
  /-- REC_NEXT, the record iterator: the next slot WRITING looks at (R51; DEDUCED, log entry 13). -/
  recNext : Nat
  /-- The retry loop's `last` failure code (R51, R202). -/
  lastFail : Code
  /-- ACCESS_ERR.ERR (R44). -/
  accessErr : Bool
  /-- The event log FIFO, oldest first (R45, R306). -/
  evtFifo : List Word
  /-- LOG_OVF (R45). -/
  logOvf : Word
  /-- The slot file; only slots below MAX_SLOTS exist in the host space (R47). -/
  slots : Vector Slot 32
  /-- The bytes of TXBUF, RXBUF, RESULT, CMDBUF0, CMDBUF1, SERIAL[s] and VALUE[s] (R49). A written byte
  stays, also past the buffer's current length (R79; DEDUCED, log entry 5). -/
  mem : Memory
  /-- The number of resets taken: which draw of the unwritten bytes holds (I8). -/
  epoch : Nat
  /-- How many requests that wait for an answer have been made: the next one's number (R89). -/
  tpSeq : Nat
  /-- Every request handed to the transport since reset, newest first (R89). -/
  tpLog : List TpReq
  /-- The steps of the other agents that are still to come, in order (R85). -/
  inputs : List Move
  /-- Whether, after the step being taken, another agent steps before the engine (R311). -/
  defer : Bool
  /-- The value the last host read returned (R74). -/
  hostData : Word
deriving DecidableEq, Repr

/-- Why the machine stops with a fault. Both are unreachable from reset with the parameters of R6
where every timing parameter is nonzero. -/
inductive Fault where
  /-- Raised by the engine's move when what ended the suspension does not fit the suspension point
  (a transport answer at a sleep, say; log entry 16). R60: the engine is at exactly one suspension point; no state
  the rules reach is such a state. Safe: the model stops where the spec gives no step. -/
  | strayResume
  /-- Raised by the step when the engine is inside an engine step that never ends: the wait loop of
  R233 with POLL_MS = 0, whose `sleep(0)` does not suspend (R11) while NOW stands still (R363). Safe:
  the model stops where the spec gives no next state. -/
  | endlessEngineStep
deriving DecidableEq, Repr

/-- Why the model gives a step no meaning. -/
inductive Refusal where
  /-- Raised by an arm of `exec` for an instruction with no meaning yet (none is left). Safe. -/
  | notModelled (mnemonic : String)
  /-- Raised by a transport answer that R164's contract rules out: an answer to a request never made,
  of a kind the request does not have, or of more than RX_CAP bytes (log entry 12). Safe: the spec says the
  transport never does this. -/
  | transportContract
deriving DecidableEq, Repr

/-- The three outcomes of a step of this machine. -/
abbrev Result := Host.Outcome State Fault Refusal

/-- The state right after reset of a build with parameters `p` (R340). The fields from `epoch` on,
the model's own, start empty (log entry 2). -/
def State.resetWith (p : Params) : State where
  params := p
  eng := .ready
  cont := .none
  resume := none
  sleepUntil := none
  tpReq := none
  rxDeadline := none
  tpOpen := false
  txValid := false
  recPend := false
  lastValid := false
  unbounded := false
  rstate := .none
  sstate := .off
  curSlot := 0
  attempts := 0
  err := ⟨.none, .none, 0, .sn⟩
  rej := ⟨.none, 0⟩
  irqPend := 0
  irqEn := 0
  chk := ⟨0, 0⟩
  now := 0
  nowHiSh := 0
  lastScan := 0
  lastHiSh := 0
  maxRetries := p.maxRetriesReset
  minScanDelay := 0
  scanCount := 0
  remaining := 0
  numAddr := 0
  cmdLen0 := 0
  cmdLen1 := 0
  txLen := 0
  rxLen := 0
  respStatus := 0
  resultLen := 0
  fresh := 0
  recSlot := 0
  recNext := 0
  lastFail := .none
  accessErr := false
  evtFifo := []
  logOvf := 0
  slots := Vector.replicate 32 {}
  mem := []
  epoch := 0
  tpSeq := 0
  tpLog := []
  inputs := []
  defer := false
  hostData := 0

/-- The machine right after reset, built with DOC0's parameters (R340, R6). -/
def State.reset : State := State.resetWith Params.default

end Sys2Proof.Machine
end

