-- ==== Sys2Proof/Machine/Ops.lean ====
section
/-! DEFINITION. The named operations the meanings share: the buffer bytes (R49, R79), the slot file
(R47), interrupts (R308), the event log (R306), ending and rejecting a command (R302, R303), and the
suspension primitives of R11. An error of this block is no trap: it ends an operation and is recorded
(R300, R312), so `State.complete`, `State.reject` and `State.log` are the block's exception entry, and
there is no return from one (R313). -/

namespace Sys2Proof.Machine

/-! ### Buffer bytes -/

/-- The byte a memory lists at an address: none if nothing has written it since reset. -/
def Memory.get? : List Host.Cell → Nat → Option Byte
  | [], _ => none
  | (x, b) :: r, a => if x = a then some b else Memory.get? r a

/-- Write one byte, keeping the addresses strictly rising. -/
def Memory.set : List Host.Cell → Nat → Byte → List Host.Cell
  | [], a, b => [(a, b)]
  | (x, y) :: r, a, b =>
    if a < x then (a, b) :: (x, y) :: r
    else if a = x then (a, b) :: r
    else (x, y) :: Memory.set r a b

/-- Write a byte sequence at ascending addresses. -/
def Memory.setBytes : List Host.Cell → Nat → List Byte → List Host.Cell
  | m, _, [] => m
  | m, a, b :: bs => Memory.setBytes (Memory.set m a b) (a + 1) bs

/-- The buffer byte at a host address: what was written, or the free value of log entry 1 (R49, I8). -/
def State.byteAt (s : State) (a : Nat) : Byte :=
  (Memory.get? s.mem a).getD (Config.unwrittenByte s.epoch a)

/-- `BUF[0..n)` of the buffer at host address `base`. -/
def State.bytesAt (s : State) (base n : Nat) : List Byte :=
  (List.range n).map fun j => s.byteAt (base + j)

/-- `BUF[0..len(bs)) <- bs` of the buffer at host address `base`. -/
def State.putBytes (s : State) (base : Nat) (bs : List Byte) : State :=
  { s with mem := Memory.setBytes s.mem base bs }

/-- Host address of TXBUF (R49). -/
def txBase : Nat := 0x1000

/-- Host address of RXBUF (R49). -/
def rxBase : Nat := 0x2000

/-- Host address of RESULT (R49). -/
def resultBase : Nat := 0x2100

/-- Host address of CMDBUF0 and CMDBUF1 (R49). -/
def cmdBase : Kind → Nat
  | .sn => 0x3000
  | .meas => 0x4000

/-- Host address of SERIAL[s] (R49). -/
def serialBase (sl : SlotId) : Nat := 0x8000 + 256 * sl.toNat

/-- Host address of VALUE[s] (R49). -/
def valueBase (sl : SlotId) : Nat := 0xA000 + 256 * sl.toNat

/-! ### The slot file -/

/-- `SLOT[s]` (R47). -/
def State.slot (s : State) (sl : SlotId) : Slot := s.slots[sl.toNat]'sl.isLt

/-- Update `SLOT[s]` (R47). -/
def State.setSlot (s : State) (sl : SlotId) (x : Slot) : State :=
  { s with slots := s.slots.set sl.toNat x sl.isLt }

/-! ### Interrupts and the event log -/

/-- The interrupt sources of R31. -/
inductive Irq where
  | done | error | reject | record | scanDone | log
deriving DecidableEq, Repr

/-- The IRQ_PEND bit of a source (R31). -/
def Irq.mask : Irq → BitVec 6
  | .done => 0b000001
  | .error => 0b000010
  | .reject => 0b000100
  | .record => 0b001000
  | .scanDone => 0b010000
  | .log => 0b100000

/-- `irq(bit)` (R12): a bit of IRQ_PEND is set and stays set (R308). -/
def State.raiseIrq (s : State) (b : Irq) : State := { s with irqPend := s.irqPend ||| b.mask }

/-- The error codes' numbers (R301). -/
def Code.byte : Code → Byte
  | .none => 0x00
  | .encodingOverflow => 0x01
  | .emptyResponse => 0x02
  | .timeoutError => 0x03
  | .checksumMismatch => 0x04
  | .negativeAcknowledge => 0x05
  | .unexpectedStatus => 0x06
  | .sendFailure => 0x07
  | .retriesExhausted => 0x08
  | .transportOpenFailure => 0x09
  | .persistenceFailure => 0x0A
  | .transportStateError => 0x0B
  | .illegalCommand => 0x0C
  | .busy => 0x0D
  | .configError => 0x0E
  | .noFrame => 0x0F
  | .noRecordPending => 0x10
  | .halted => 0x11

/-- The event word of R306: code, sub-code, slot, kind from the low bits up. -/
def eventWord (code : Code) (sub : Byte) (sl : SlotId) (k : Kind) : Word :=
  0#7 ++ k.bit ++ 0#3 ++ sl ++ sub ++ code.byte

/-- `log(code, sub, slot, kind)` (R306): append to the FIFO, or count the drop if it is full; raise
LOG either way. -/
def State.log (s : State) (code : Code) (sub : Byte) (sl : SlotId) (k : Kind) : State :=
  { s with
    evtFifo :=
      if s.evtFifo.length < s.params.logDepth then s.evtFifo ++ [eventWord code sub sl k]
      else s.evtFifo
    logOvf := if s.evtFifo.length < s.params.logDepth then s.logOvf else s.logOvf + 1
    irqPend := s.irqPend ||| Irq.log.mask }

/-! ### Ending and rejecting a command -/

/-- `complete(code, last, slot, kind)` (R302): write ERR, leave CMD for READY with an empty
continuation, raise DONE, and ERROR for a nonzero code. -/
def State.complete (s : State) (code : Code) (last : Code := .none) (sl : SlotId := 0)
    (k : Kind := .sn) : State :=
  { s with
    err := ⟨code, last, sl, k⟩
    eng := .ready
    cont := .none
    irqPend :=
      s.irqPend ||| Irq.done.mask ||| (if code = .none then 0 else Irq.error.mask) }

/-- `reject(code, op)` (R303): write REJ and raise REJECT; nothing else changes. -/
def State.reject (s : State) (code : Code) (op : Byte) : State :=
  { s with rej := ⟨code, op⟩, irqPend := s.irqPend ||| Irq.reject.mask }

/-- Issue of a run command or of SCAN_START in the order of R100: Halted, Busy, then the command's
preconditions, of which `pre` gives the code of the first that fails; an accepted command goes on as
`go` says. -/
def issue (i : Instr) (pre : State → Option Code) (go : State → State) (s : State) : Result :=
  if s.eng = .halted then .next (s.reject .halted (opOf i))
  else if s.eng ≠ .ready then .next (s.reject .busy (opOf i))
  else
    match pre s with
    | some c => .next (s.reject c (opOf i))
    | none => .next (go s)

/-- Acceptance of a run command: `ENG <- CMD; STATUS.BUSY <- 1; start the command's pseudocode`
(R100). Where the schedule lets another agent step first (`defer`), the engine is left runnable at
the command's start; otherwise its first engine step follows (log entry 3). -/
def launch (i : Instr) (run : State → State) (s : State) : State :=
  if s.defer then { s with eng := .cmd, cont := .start i, resume := some .go }
  else run { s with eng := .cmd }

/-! ### Suspension (R11) -/

/-- `sleep(d)` (R11): suspend at `k` until a timebase step makes `NOW >= NOW0 + d`, the sum modulo 2^64
(R8, log entry 11). None where `d = 0`, which does not suspend. -/
def State.sleep (s : State) (d : Time) (k : Cont) : Option State :=
  if d = 0 then none else some { s with cont := k, sleepUntil := some (s.now + d) }

/-- `tp_call(req)` for open, send and recv (R11, R164): hand the request over and suspend at `k`. -/
def State.tpCall (s : State) (req : TpReq) (k : Cont) : State :=
  { s with
    cont := k
    tpReq := some ⟨s.tpSeq, req⟩
    tpSeq := s.tpSeq + 1
    tpLog := req :: s.tpLog }

/-- `tp_call(close); TP_OPEN <- 0`: close answers Ok in the same step (R164). -/
def State.closeTp (s : State) : State :=
  { s with tpOpen := false, tpLog := .closeLine :: s.tpLog }

/-- The open request, with the build's line profile (R160, R164). -/
def State.openReq (s : State) : TpReq :=
  .openLine s.params.baud s.params.dataBits s.params.parity s.params.stopBits

/-- The recv request (R164). -/
def State.recvReq (s : State) : TpReq := .recvBytes s.params.rxCap s.params.rxTimeoutMs

/-- What a suspension point with a transport request got: Ok or not. -/
def Resume.isOk (r : Resume) : Bool := decide (r = .answered .ok)

/-- What a receive got: the bytes, or none for Timeout and Deadline (R165). -/
def Resume.rx : Resume → Option (List Byte)
  | .answered (.bytes b) => some b
  | .answered .ok => none
  | .answered .fail => none
  | .answered .timeout => none
  | .deadline => none
  | .go => none
  | .woke => none
  | .ack _ => none

/-- The code a wait_ack got (R246). -/
def Resume.ackCode : Resume → Byte
  | .ack c => c
  | .answered _ => 0
  | .deadline => 0
  | .go => 0
  | .woke => 0

end Sys2Proof.Machine
end

