-- ==== Sys2Proof/Machine/Operands.lean ====
section
/-! DEFINITION. What the operand fields of a command select (R102), and the preconditions the command
rules list, each with its rejection code. -/

namespace Sys2Proof.Machine

/-- `CMDLENk` (R40, R102). -/
def State.cmdLen (s : State) : Kind → BitVec 16
  | .sn => s.cmdLen0
  | .meas => s.cmdLen1

/-- `CMDBUFk[0..CMDLENk)`, the command payload KIND selects (R102). -/
def State.payload (s : State) (k : Kind) : List Byte := s.bytesAt (cmdBase k) (s.cmdLen k).toNat

/-- `RXBUF[0..RX_LEN)` (R132, R133). -/
def State.rxBytes (s : State) : List Byte := s.bytesAt rxBase s.rxLen.toNat

/-- `TXBUF[0..TX_LEN)` (R162). -/
def State.txBytes (s : State) : List Byte := s.bytesAt txBase s.txLen.toNat

/-- The code of the first precondition that fails, in the order listed (R100, R310). -/
def firstFailure : List (Bool × Code) → Option Code
  | [] => none
  | (bad, c) :: r => if bad then some c else firstFailure r

/-- `TP_OPEN = 0` -> TransportStateError. -/
def needOpen (s : State) : Bool × Code := (!s.tpOpen, .transportStateError)

/-- `CMDLENk > CMDBUF_CAP` -> ConfigError. -/
def needCmdLen (k : Kind) (s : State) : Bool × Code :=
  (decide (s.params.cmdBufCap < (s.cmdLen k).toNat), .configError)

/-- `RX_LEN > RX_CAP` -> ConfigError. -/
def needRxLen (s : State) : Bool × Code :=
  (decide (s.params.rxCap < s.rxLen.toNat), .configError)

/-- `NUM_ADDR > MAX_SLOTS or s >= NUM_ADDR` -> ConfigError. -/
def needSlot (sl : SlotId) (s : State) : Bool × Code :=
  (decide (s.params.maxSlots < s.numAddr.toNat ∨ s.numAddr.toNat ≤ sl.toNat), .configError)

/-- `MAX_RETRIES = 0` -> ConfigError. -/
def needRetries (s : State) : Bool × Code := (s.maxRetries == 0, .configError)

/-- The addresses of the configured slots, modulo 0x80 (R230). -/
def State.lineAddrs (s : State) : List Byte :=
  (List.range s.numAddr.toNat).map fun j => (s.slot (BitVec.ofNat 5 j)).addr &&& 0x7F

/-- Preconditions of ENCODE (R130). -/
def preEncode (k : Kind) (s : State) : Option Code := firstFailure [needCmdLen k s]

/-- Preconditions of VERIFY and DECODE (R132, R133). -/
def preCheck (s : State) : Option Code := firstFailure [needRxLen s]

/-- Preconditions of OPEN (R160). -/
def preOpen (s : State) : Option Code := firstFailure [(s.tpOpen, .transportStateError)]

/-- CLOSE and DELAY are never rejected beyond Busy and Halted (R161, R270). -/
def preNone (_ : State) : Option Code := none

/-- Preconditions of SEND (R162). -/
def preSend (s : State) : Option Code := firstFailure [needOpen s, (!s.txValid, .noFrame)]

/-- Preconditions of RECV and FLUSH (R163, R167). -/
def preReceive (s : State) : Option Code := firstFailure [needOpen s]

/-- Preconditions of QUERY (R168). -/
def preQuery (k : Kind) (sl : SlotId) (s : State) : Option Code :=
  firstFailure [needOpen s, needSlot sl s, needCmdLen k s]

/-- Preconditions of TRANSACT.SN and TRANSACT.MEAS (R200, R201). -/
def preTransact (k : Kind) (sl : SlotId) (s : State) : Option Code :=
  firstFailure [needOpen s, needSlot sl s, needCmdLen k s, needRetries s]

/-- Preconditions of SCAN_START (R230). -/
def preScanStart (s : State) : Option Code :=
  firstFailure
    [(decide (s.numAddr.toNat = 0 ∨ s.params.maxSlots < s.numAddr.toNat), .configError),
      (decide (¬ s.lineAddrs.Nodup), .configError),
      needCmdLen .sn s,
      needCmdLen .meas s,
      needRetries s,
      (s.tpOpen, .transportStateError)]

end Sys2Proof.Machine
end

