-- ==== Sys2Proof/Machine/Flags.lean ====
section
/-! DEFINITION. The registers whose bits are computed from other state: STATUS, ERR, REJ, CHK, the
RETRY words, PARAM0..PARAM5 and the interrupt output (10_state.md R26 to R32, R45 to R47; R309).
They are not stored a second time (DESIGN CHOICE, log entry 14). -/

namespace Sys2Proof.Machine

/-- RSTATE's encoding (R27). -/
def RState.bits : RState → BitVec 3
  | .none => 0
  | .attempting => 1
  | .succeeded => 2
  | .naked => 3
  | .failed => 4
  | .exhausted => 5

/-- SSTATE's encoding (R28). -/
def SState.bits : SState → BitVec 3
  | .off => 0
  | .idle => 1
  | .waiting => 2
  | .scanning => 3
  | .writing => 4
  | .complete => 5
  | .halted => 6

/-- STATUS.BUSY: ENG = CMD (R26). -/
def State.busy (s : State) : Bool := decide (s.eng = .cmd)

/-- STATUS.SCHED_ACTIVE: ENG = SCHED (R26). -/
def State.schedActive (s : State) : Bool := decide (s.eng = .sched)

/-- STATUS.HALTED: ENG = HALTED (R26). -/
def State.isHalted (s : State) : Bool := decide (s.eng = .halted)

/-- The configuration lock: BUSY, SCHED_ACTIVE or HALTED (R24). -/
def State.locked (s : State) : Bool := s.busy || s.schedActive || s.isHalted

/-- STATUS (R26), from bit 31 down to bit 0. -/
def State.statusWord (s : State) : Word :=
  s.attempts ++ 0#3 ++ s.curSlot ++ 0#1 ++ s.sstate.bits ++ 0#1 ++ s.rstate.bits ++
    BitVec.ofBool s.unbounded ++ BitVec.ofBool s.lastValid ++ BitVec.ofBool s.isHalted ++
    BitVec.ofBool s.recPend ++ BitVec.ofBool s.txValid ++ BitVec.ofBool s.tpOpen ++
    BitVec.ofBool s.schedActive ++ BitVec.ofBool s.busy

/-- ERR (R29). -/
def State.errWord (s : State) : Word :=
  0#7 ++ s.err.kind.bit ++ 0#3 ++ s.err.slot ++ s.err.last.byte ++ s.err.code.byte

/-- REJ (R30). -/
def State.rejWord (s : State) : Word := 0#16 ++ s.rej.op ++ s.rej.code.byte

/-- CHK (R32). -/
def State.chkWord (s : State) : Word := 0#16 ++ s.chk.rcvd ++ s.chk.calcd

/-- RETRY of a slot (R47). -/
def Slot.retryWord (x : Slot) : Word :=
  0#9 ++ x.measRState.bits ++ 0#1 ++ x.snRState.bits ++ x.measAtt ++ x.snAtt

/-- EVT_COUNT (R45). -/
def State.evtCount (s : State) : Byte := BitVec.ofNat 8 s.evtFifo.length

/-- FRESH as read: bits at and above MAX_SLOTS read 0 (R43). -/
def State.freshWord (s : State) : Word :=
  s.fresh &&& BitVec.ofNat 32 (2 ^ s.params.maxSlots - 1)

/-- The interrupt output IRQ (R309). -/
def State.irqOut (s : State) : Bool := s.irqPend &&& s.irqEn != 0

/-- PARAM3.PARITY's encoding (R46). -/
def parityBits : Parity → BitVec 2
  | .none => 0
  | .odd => 1
  | .even => 2

/-- PARAM3.STOP_BITS's encoding (R46). -/
def stopBitsBits : StopBits → BitVec 2
  | .one => 1
  | .two => 2

/-- PARAM0 (R46). -/
def param0 (p : Params) : Word := p.rxTimeoutMs ++ p.settleMs

/-- PARAM1 (R46). -/
def param1 (p : Params) : Word := p.pollMs ++ p.paceMs

/-- PARAM2 (R46). -/
def param2 (p : Params) : Word := BitVec.ofNat 16 p.cmdBufCap ++ BitVec.ofNat 16 p.txCap

/-- PARAM3 (R46). -/
def param3 (p : Params) : Word :=
  stopBitsBits p.stopBits ++ parityBits p.parity ++ p.dataBits ++ p.baud

/-- PARAM4 (R46). -/
def param4 (p : Params) : Word :=
  BitVec.ofNat 8 p.logDepth ++ 0#2 ++ BitVec.ofNat 6 p.maxSlots ++ 0#7 ++ BitVec.ofNat 9 p.rxCap

/-- PARAM5 (R46). -/
def param5 (p : Params) : Word := 0#23 ++ BitVec.ofBool p.snStatusSigned ++ p.maxRetriesReset

end Sys2Proof.Machine
end

