-- ==== Sys2Proof/Machine/Codec.lean ====
section
/-! DEFINITION. The frame codec (40_frame_codec.md): the pure functions EncodeFrame (R131),
DecodeFrame (R134) and keep (R135), and the commands ENCODE, VERIFY and DECODE. -/

namespace Sys2Proof.Machine

/-! ### Pure functions -/

/-- `xor(s)`: the exclusive-or of all bytes, 0x00 for none (R9). -/
def xorBytes : List Byte → Byte
  | [] => 0
  | b :: bs => b ^^^ xorBytes bs

/-- `EncodeFrame(p, a)` (R131, layout R110); none is Overflow. The checksum covers payload and ETX
and leaves the address byte out. -/
def encodeFrame (txCap : Nat) (p : List Byte) (a : Byte) : Option (List Byte) :=
  if txCap < p.length + 3 then none
  else some ((a ||| Config.addrMark) :: p ++ [Config.etx, xorBytes p ^^^ Config.etx])

/-- `keep(b)` (R135): null, tab to carriage return, space to tilde. -/
def keepByte (b : Byte) : Bool :=
  decide (b = 0x00 ∨ (0x09 ≤ b ∧ b ≤ 0x0D) ∨ (0x20 ≤ b ∧ b ≤ 0x7E))

/-- The outcome of DecodeFrame (R134). -/
inductive Decoded where
  /-- Err(EmptyResponse) -/
  | empty
  /-- Err(ChecksumMismatch, c) -/
  | mismatch (c : Byte)
  /-- Ok(st, payload, c) -/
  | ok (st : Byte) (payload : List Byte) (c : Byte)
deriving DecidableEq, Repr

/-- `xor(r[0..m-1))`: the checksum of all bytes before the last (R134). -/
def bodyXor (r : List Byte) : Byte := xorBytes r.dropLast

/-- `r[m-1]`: the received checksum byte (R134). -/
def lastByte (r : List Byte) : Byte := r.getLastD 0

/-- The filtered payload of a response (R134): the bytes after the status and before the checksum, up
to the first ETX, of which the kept ones stay. -/
def unpack (r : List Byte) : List Byte :=
  (r.tail.dropLast.takeWhile fun b => b != Config.etx).filter keepByte

/-- `DecodeFrame(r)` (R134): empty first, then the checksum, then the unpacking. -/
def decodeFrame (r : List Byte) : Decoded :=
  match r with
  | [] => .empty
  | st :: _ =>
    if bodyXor r ≠ lastByte r then .mismatch (bodyXor r) else .ok st (unpack r) (bodyXor r)

/-! ### What the codec writes -/

/-- A built frame goes to TXBUF: `TXBUF[0..len(f)) <- f; TX_LEN; TX_VALID <- 1; CHK.CALC` (R130,
R169). -/
def State.loadFrame (s : State) (f : List Byte) : State :=
  { s with
    mem := Memory.setBytes s.mem txBase f
    txLen := BitVec.ofNat 16 f.length
    txValid := true
    chk := { s.chk with calcd := lastByte f } }

/-- Overflow: `TX_VALID <- 0; TX_LEN <- 0`, TXBUF bytes unchanged (R130, R169). -/
def State.dropFrame (s : State) : State := { s with txValid := false, txLen := 0 }

/-- `if n >= 1: CHK.CALC <- xor(r[0..n-1)); CHK.RCVD <- r[n-1]` (R132, R133, R169). -/
def State.noteChk (s : State) (r : List Byte) : State :=
  { s with chk := if r = [] then s.chk else ⟨bodyXor r, lastByte r⟩ }

/-- A decoded response goes to RESP_STATUS and RESULT (R133, R169). -/
def State.storeResult (s : State) (st : Byte) (payload : List Byte) : State :=
  { s with
    respStatus := st
    mem := Memory.setBytes s.mem resultBase payload
    resultLen := BitVec.ofNat 8 payload.length }

/-! ### Commands -/

/-- ENCODE's pseudocode (R130). -/
def runEncode (k : Kind) (a : Byte) (s : State) : State :=
  match encodeFrame s.params.txCap (s.payload k) a with
  | none => s.dropFrame.complete .encodingOverflow
  | some f => (s.loadFrame f).complete .none

/-- ENCODE k, a (R130). -/
def execEncode (k : Kind) (a : Byte) (s : State) : Result :=
  issue (.encode k a) (preEncode k) (launch (.encode k a) (runEncode k a)) s

/-- VERIFY's pseudocode (R132). -/
def runVerify (s : State) : State :=
  match s.rxBytes with
  | [] => s.complete .emptyResponse
  | r => (s.noteChk r).complete (if bodyXor r ≠ lastByte r then .checksumMismatch else .none)

/-- VERIFY (R132). -/
def execVerify (s : State) : Result := issue .verify preCheck (launch .verify runVerify) s

/-- DECODE's pseudocode (R133). -/
def runDecode (s : State) : State :=
  let r := s.rxBytes
  let s := s.noteChk r
  match decodeFrame r with
  | .empty => s.complete .emptyResponse
  | .mismatch _ => s.complete .checksumMismatch
  | .ok st payload _ => (s.storeResult st payload).complete .none

/-- DECODE (R133). -/
def execDecode (s : State) : Result := issue .decode preCheck (launch .decode runDecode) s

end Sys2Proof.Machine
end

