-- ==== Sys2Proof/Machine/Session.lean ====
section
/-! DEFINITION. The transport's use and the device session (41_device_session.md): Receive (R165,
R166), Query (R169) cut at its suspension points, and the commands OPEN, CLOSE, SEND, RECV, FLUSH and
QUERY. -/

namespace Sys2Proof.Machine

/-! ### Receive -/

/-- `Receive()` up to its suspension (R165): the deadline is set and the request made. None where
RX_TIMEOUT_MS = 0: "every receive returns Timeout at once and no request stays outstanding" (R166);
`State.receiveNow` is that case's state. -/
def State.receive (s : State) (k : Cont) : Option State :=
  if s.params.rxTimeoutMs = 0 then none
  else some { s.tpCall s.recvReq k with
    rxDeadline := some (s.now + s.params.rxTimeoutMs.setWidth 64) }

/-- A receive with RX_TIMEOUT_MS = 0: the request is made and abandoned in the same step (R166;
DEDUCED, log entry 7). -/
def State.receiveNow (s : State) : State :=
  { s with tpSeq := s.tpSeq + 1, tpLog := s.recvReq :: s.tpLog }

/-- What the callers of Receive other than FLUSH write: `RX_LEN <- 0` on Timeout, RXBUF bytes
unchanged; else the bytes and their length (R163, R169). -/
def State.takeRx (s : State) : Option (List Byte) → State
  | none => { s with rxLen := 0 }
  | some b =>
    { s with mem := Memory.setBytes s.mem rxBase b, rxLen := BitVec.ofNat 9 b.length }

/-! ### Query -/

/-- The result of a Query (R169). -/
inductive QResult where
  | err (c : Code)
  | ok (st : Byte) (payload : List Byte)
deriving DecidableEq, Repr

/-- How far a Query got: suspended, or ended with its result. -/
inductive Progress where
  | suspended (s : State)
  | ended (s : State) (r : QResult)
deriving DecidableEq, Repr

/-- A Query's first part: the frame handed to the transport, or Overflow. -/
inductive Begun where
  | sent (s : State)
  | overflow (s : State)
deriving DecidableEq, Repr

/-- The KIND of the Query an activation runs. -/
def Task.kind : Task → Kind
  | .query k _ => k
  | .transact k _ _ => k

/-- The slot of the Query an activation runs. -/
def Task.slot : Task → SlotId
  | .query _ sl => sl
  | .transact _ sl _ => sl

/-- Query up to `tp_call(send(f))` (R169). -/
def queryBegin (t : Task) (s : State) : Begun :=
  let s := { s with curSlot := t.slot }
  match encodeFrame s.params.txCap (s.payload t.kind) (s.slot t.slot).addr with
  | none => .overflow s.dropFrame
  | some f => .sent ((s.loadFrame f).tpCall (.sendBytes f) (.querySend t))

/-- `SLOT[s].SENT <- SLOT[s].SENT + 1` (R169), modulo 2^32 (R48). -/
def State.countSent (s : State) (sl : SlotId) : State :=
  s.setSlot sl { s.slot sl with sent := (s.slot sl).sent + 1 }

/-- `SLOT[s].RECV <- SLOT[s].RECV + 1` (R169), modulo 2^32 (R48). -/
def State.countRecv (s : State) (sl : SlotId) : State :=
  s.setSlot sl { s.slot sl with recv := (s.slot sl).recv + 1 }

/-- Query after its receive (R169): the bytes and CHK stored, the frame decoded, RECV counted and the
result stored on success. -/
def queryGot (t : Task) (rx : Option (List Byte)) (s : State) : State × QResult :=
  match rx with
  | none => (s.takeRx none, .err .timeoutError)
  | some b =>
    let s := (s.takeRx (some b)).noteChk b
    match decodeFrame b with
    | .empty => (s, .err .emptyResponse)
    | .mismatch _ => (s, .err .checksumMismatch)
    | .ok st payload _ => ((s.countRecv t.slot).storeResult st payload, .ok st payload)

/-- Query's Receive (R169). -/
def queryReceive (t : Task) (s : State) : Progress :=
  match s.receive (.queryRecv t) with
  | some s' => .suspended s'
  | none => .ended (queryGot t none s.receiveNow).1 (queryGot t none s.receiveNow).2

/-- Query after the transport's answer to the send (R169): SENT counts a successful send, and the
settle interval starts at this step (D10). -/
def queryAfterSend (t : Task) (ok : Bool) (s : State) : Progress :=
  if ok then
    let s := s.countSent t.slot
    match s.sleep (s.params.settleMs.setWidth 64) (.querySettle t) with
    | some s' => .suspended s'
    | none => queryReceive t s
  else .ended s (.err .sendFailure)

/-! ### Commands -/

/-- OPEN up to its suspension (R160). -/
def runOpen (s : State) : State := s.tpCall s.openReq .openAns

/-- OPEN after the transport's answer (R160). -/
def openAnswered (ok : Bool) (s : State) : State :=
  if ok then { s with tpOpen := true }.complete .none else s.complete .transportOpenFailure

/-- OPEN (R160). -/
def execOpen (s : State) : Result := issue .openTp preOpen (launch .openTp runOpen) s

/-- CLOSE's pseudocode (R161): a transport already closed is left as it is. -/
def runClose (s : State) : State := (if s.tpOpen then s.closeTp else s).complete .none

/-- CLOSE (R161). -/
def execClose (s : State) : Result := issue .closeTp preNone (launch .closeTp runClose) s

/-- SEND up to its suspension (R162). -/
def runSend (s : State) : State := s.tpCall (.sendBytes s.txBytes) .sendAns

/-- SEND after the transport's answer (R162). -/
def sendAnswered (ok : Bool) (s : State) : State :=
  s.complete (if ok then .none else .sendFailure)

/-- SEND (R162). -/
def execSend (s : State) : Result := issue .send preSend (launch .send runSend) s

/-- RECV after its receive (R163). -/
def recvGot (rx : Option (List Byte)) (s : State) : State :=
  (s.takeRx rx).complete (if rx = none then .timeoutError else .none)

/-- RECV up to its suspension (R163). -/
def runRecv (s : State) : State := (s.receive .recvAns).getD (recvGot none s.receiveNow)

/-- RECV (R163). -/
def execRecv (s : State) : Result := issue .recv preReceive (launch .recv runRecv) s

/-- FLUSH after its receive, whatever it got (R167). -/
def flushGot (s : State) : State := s.complete .none

/-- FLUSH up to its suspension (R167). -/
def runFlush (s : State) : State := (s.receive .flushAns).getD (flushGot s.receiveNow)

/-- FLUSH (R167). -/
def execFlush (s : State) : Result := issue .flush preReceive (launch .flush runFlush) s

/-- QUERY after its Query (R168): ERR holds the code, the slot and the kind. -/
def queryDone (k : Kind) (sl : SlotId) (r : QResult) (s : State) : State :=
  match r with
  | .err c => s.complete c .none sl k
  | .ok _ _ => s.complete .none .none sl k

/-- QUERY up to its first suspension (R168). -/
def runQuery (k : Kind) (sl : SlotId) (s : State) : State :=
  match queryBegin (.query k sl) s with
  | .sent s' => s'
  | .overflow s' => queryDone k sl (.err .encodingOverflow) s'

/-- QUERY k, sl (R168). -/
def execQuery (k : Kind) (sl : SlotId) (s : State) : Result :=
  issue (.query k sl) (preQuery k sl) (launch (.query k sl) (runQuery k sl)) s

end Sys2Proof.Machine
end

