-- ==== Sys2Proof/Machine/Retry.lean ====
section
/-! DEFINITION. The retry controller (42_retry_controller.md): classification (R210), the loop of
Transact (R202) cut at its suspension points, the stores on success (R213, R214), and the commands
TRANSACT.SN and TRANSACT.MEAS. -/

namespace Sys2Proof.Machine

/-- The class of one attempt's outcome (R210). -/
inductive AttemptClass where
  | fatal
  | success (payload : List Byte)
  | naked
  | retry (c : Code)
deriving DecidableEq, Repr

/-- `success(k, st)` (R210). -/
def successStatus (p : Params) (k : Kind) (st : Byte) : Bool :=
  match k with
  | .sn => decide (st ≠ Config.nak) && (!p.snStatusSigned || decide (st < 0x80))
  | .meas => decide (st = Config.ack)

/-- `classify(k, r)` (R210), the first match winning. -/
def classify (p : Params) (k : Kind) (r : QResult) : AttemptClass :=
  match r with
  | .err .encodingOverflow => .fatal
  | .err c => .retry c
  | .ok st payload =>
    if successStatus p k st then .success payload
    else if st = Config.nak then .naked
    else .retry .unexpectedStatus

/-- `keep_retry(s, k)` (R202): the final attempt count and state go to the slot. -/
def State.keepRetry (s : State) (k : Kind) (sl : SlotId) : State :=
  match k with
  | .sn => s.setSlot sl { s.slot sl with snAtt := s.attempts, snRState := s.rstate }
  | .meas => s.setSlot sl { s.slot sl with measAtt := s.attempts, measRState := s.rstate }

/-- `SLOT[s].NAKC <- SLOT[s].NAKC + 1` (R211), modulo 2^32 (R48). -/
def State.countNak (s : State) (sl : SlotId) : State :=
  s.setSlot sl { s.slot sl with nakc := (s.slot sl).nakc + 1 }

/-- `SERIAL[s][0..len) <- payload; SN_LEN <- len` (R213). -/
def State.storeSerial (s : State) (sl : SlotId) (payload : List Byte) : State :=
  (s.putBytes (serialBase sl) payload).setSlot sl
    { s.slot sl with snLen := BitVec.ofNat 8 payload.length }

/-- `VALUE[s][0..len) <- payload; VAL_LEN <- len; TS <- NOW; FRESH[s] <- 1` (R214). -/
def State.storeValue (s : State) (sl : SlotId) (payload : List Byte) : State :=
  { (s.putBytes (valueBase sl) payload).setSlot sl
      { s.slot sl with valLen := BitVec.ofNat 8 payload.length, ts := s.now } with
    fresh := s.fresh ||| 1#32 <<< sl.toNat }

/-- `store(s, k, payload)` (R202). -/
def State.store (s : State) (k : Kind) (sl : SlotId) (payload : List Byte) : State :=
  match k with
  | .sn => s.storeSerial sl payload
  | .meas => s.storeValue sl payload

/-- The result of a Transact (R216). -/
inductive TResult where
  | ok
  | overflow
  | exhausted (last : Code)
deriving DecidableEq, Repr

/-- How far a Transact got: suspended inside a Query, or ended with its result. -/
inductive TProgress where
  | suspended (s : State)
  | ended (s : State) (r : TResult)
deriving DecidableEq, Repr

/-- FATAL (R202): RSTATE FAILED, kept and logged. -/
def transactFatal (k : Kind) (sl : SlotId) (s : State) : State :=
  ({ s with rstate := .failed }.keepRetry k sl).log .encodingOverflow 0 sl k

/-- The loop's end without success (R202): RSTATE EXHAUSTED, kept and logged with `last`. -/
def transactExhaust (k : Kind) (sl : SlotId) (s : State) : State :=
  ({ s with rstate := .exhausted }.keepRetry k sl).log .retriesExhausted s.lastFail.byte sl k

/-- The loop test and the start of the next attempt (R202). Every Query started here suspends in its
send or ends at once in EncodingOverflow (`queryBegin`), so one engine step starts one attempt. -/
def transactAttempt (k : Kind) (sl : SlotId) (o : Owner) (s : State) : TProgress :=
  if s.attempts < s.maxRetries then
    match queryBegin (.transact k sl o) { s with attempts := s.attempts + 1 } with
    | .sent s' => .suspended s'
    | .overflow s' => .ended (transactFatal k sl s') .overflow
  else .ended (transactExhaust k sl s) (.exhausted s.lastFail)

/-- Transact from its start (R202). -/
def transactBegin (k : Kind) (sl : SlotId) (o : Owner) (s : State) : TProgress :=
  transactAttempt k sl o
    { s with curSlot := sl, attempts := 0, rstate := .attempting, lastFail := .none }

/-- Transact after one attempt's Query (R202, R210). -/
def transactOutcome (k : Kind) (sl : SlotId) (o : Owner) (r : QResult) (s : State) : TProgress :=
  match classify s.params k r with
  | .fatal => .ended (transactFatal k sl s) .overflow
  | .success payload =>
    .ended ({ s.store k sl payload with rstate := .succeeded }.keepRetry k sl) .ok
  | .naked =>
    transactAttempt k sl o
      { s.countNak sl with rstate := .naked, lastFail := .negativeAcknowledge }
  | .retry c =>
    transactAttempt k sl o ({ s with rstate := .attempting, lastFail := c }.log c 0 sl k)

/-! ### Commands -/

/-- The end of a host-issued TRANSACT (R200, R201). -/
def transactDone (k : Kind) (sl : SlotId) (r : TResult) (s : State) : State :=
  match r with
  | .ok => s.complete .none .none sl k
  | .overflow => s.complete .encodingOverflow .none sl k
  | .exhausted last => s.complete .retriesExhausted last sl k

/-- A host-issued TRANSACT goes on, or ends. -/
def transactHost (k : Kind) (sl : SlotId) : TProgress → State
  | .suspended s => s
  | .ended s r => transactDone k sl r s

/-- TRANSACT.SN up to its first suspension (R200). -/
def runTransactSn (sl : SlotId) (s : State) : State :=
  transactHost .sn sl (transactBegin .sn sl .host s)

/-- TRANSACT.SN sl (R200). -/
def execTransactSn (sl : SlotId) (s : State) : Result :=
  issue (.transactSn sl) (preTransact .sn sl) (launch (.transactSn sl) (runTransactSn sl)) s

/-- TRANSACT.MEAS up to its first suspension (R201). -/
def runTransactMeas (sl : SlotId) (s : State) : State :=
  transactHost .meas sl (transactBegin .meas sl .host s)

/-- TRANSACT.MEAS sl (R201). -/
def execTransactMeas (sl : SlotId) (s : State) : Result :=
  issue (.transactMeas sl) (preTransact .meas sl) (launch (.transactMeas sl) (runTransactMeas sl)) s

end Sys2Proof.Machine
end

