-- ==== Sys2Proof/Machine/Scheduler.lean ====
section
/-! DEFINITION. The scan scheduler (43_scan_scheduler.md): the program of R231 cut at its suspension
points, and the commands SCAN_START (R230) and RESULT_ACK (R246). -/

namespace Sys2Proof.Machine

/-- The minimum-delay test of R233: `LAST_VALID and (NOW - LAST_SCAN) < MIN_SCAN_DELAY * 1000`, in 64
bits, unsigned. -/
def State.mustWait (s : State) : Bool :=
  s.lastValid && decide (s.now - s.lastScan < s.minScanDelay.setWidth 64 * 1000)

/-- WAITING's loop test (R233), then the open request (R234). With POLL_MS = 0 the loop never
suspends: `Cont.spin` (log entry 9). -/
def schedTest (s : State) : State :=
  if s.mustWait then
    (s.sleep (s.params.pollMs.setWidth 64) .schedPoll).getD { s with cont := .spin }
  else s.tpCall s.openReq .schedOpen

/-- IDLE and the entry of WAITING (R232, R233); an exhausted budget idles for good (R242). -/
def schedIdle (s : State) : State :=
  if s.unbounded || s.remaining != 0 then schedTest { s with sstate := .waiting }
  else { s with sstate := .idle, cont := .haltIdle }

/-- COMPLETE (R241): close, record the time, raise SCAN_DONE, back to IDLE. -/
def schedComplete (s : State) : State :=
  schedIdle ({ s.closeTp with
    sstate := .complete, lastScan := s.now, lastValid := true }.raiseIrq .scanDone)

/-- The first slot from REC_NEXT on whose FRESH bit is set (R240). -/
def State.nextFresh (s : State) : Option Nat :=
  (List.range s.numAddr.toNat).find? fun j => decide (s.recNext ≤ j) && s.fresh.getLsbD j

/-- WRITING's loop (R240): present the next FRESH slot's record and wait for RESULT_ACK, or go on to
COMPLETE. -/
def schedPresent (s : State) : State :=
  match s.nextFresh with
  | some j =>
    { s with recSlot := BitVec.ofNat 5 j, recPend := true, recNext := j + 1,
             cont := .schedAck }.raiseIrq .record
  | none => schedComplete s

/-- WRITING from its start (R240). -/
def schedWriting (s : State) : State := schedPresent { s with sstate := .writing, recNext := 0 }

/-- WRITING after RESULT_ACK c (R240): a nonzero code is logged as PersistenceFailure. -/
def schedAcked (c : Byte) (s : State) : State :=
  schedPresent (if c = 0 then s else s.log .persistenceFailure c s.recSlot .sn)

/-- `sleep(PACE_MS)` (R239). -/
def State.pace (s : State) : Option State := s.sleep (s.params.paceMs.setWidth 64) .schedPace

/-- SCANNING's loop with `n` slots to go, the next being NUM_ADDR - n (R238). A Transact that ends
without suspending (EncodingOverflow) and a PACE_MS of 0 lead to the next slot in the same step. -/
def schedSlots : Nat → State → State
  | 0, s => schedWriting s
  | n + 1, s =>
    let sl := BitVec.ofNat 5 (s.numAddr.toNat - (n + 1))
    match transactBegin .sn sl .scan { s with sstate := .scanning, curSlot := sl } with
    | .suspended s' => s'
    | .ended s' _ => s'.pace.getD (schedSlots n s')

/-- SCANNING after slot CUR_SLOT and its pacing (R238, R239). -/
def schedNextSlot (s : State) : State :=
  schedSlots (s.numAddr.toNat - (s.curSlot.toNat + 1)) s

/-- The pacing delay after a slot's commands (R239). -/
def schedPaceSlot (s : State) : State := s.pace.getD (schedNextSlot s)

/-- SCANNING after a Transact of slot `sl` ended (R238): only a serial-number success leads to the
measurement. -/
def schedTransacted (k : Kind) (sl : SlotId) (r : TResult) (s : State) : State :=
  match k, r with
  | .sn, .ok =>
    match transactBegin .meas sl .scan s with
    | .suspended s' => s'
    | .ended s' _ => schedPaceSlot s'
  | _, _ => schedPaceSlot s

/-- A scheduler-issued Transact goes on, or ends. -/
def transactScan (k : Kind) (sl : SlotId) : TProgress → State
  | .suspended s => s
  | .ended s r => schedTransacted k sl r s

/-- SCANNING from its start (R238). -/
def schedScan (s : State) : State := schedSlots s.numAddr.toNat s

/-- The scheduler after the transport's answer to open: the budget, FRESH and the dummy receive (R236,
R237), or the open failure's back-off (R235). -/
def schedOpened (ok : Bool) (s : State) : State :=
  if ok then
    let s := { s with
      tpOpen := true
      remaining := if s.unbounded then s.remaining else s.remaining - 1
      fresh := 0 }
    (s.receive .schedFlush).getD (schedScan s.receiveNow)
  else
    let s := s.log .transportOpenFailure 0 0 .sn
    (s.sleep (s.params.pollMs.setWidth 64) .schedBackoff).getD (schedIdle s)

/-! ### Commands -/

/-- SCAN_START's effect (R230): the budget latched, ERR cleared and DONE raised at acceptance, and
the scheduler entered at IDLE in the same step (DEDUCED, log entry 10). -/
def runScanStart (s : State) : State :=
  schedIdle ({ s with
    remaining := s.scanCount
    unbounded := s.scanCount == 0
    err := ⟨.none, .none, 0, .sn⟩
    eng := .sched }.raiseIrq .done)

/-- SCAN_START (R230). -/
def execScanStart (s : State) : Result := issue .scanStart preScanStart runScanStart s

/-- RESULT_ACK c (R246), an immediate command: accepted whenever a record is presented, it clears
REC_PEND and ends the scheduler's wait_ack with c; the scheduler goes on at its next engine step. -/
def execResultAck (c : Byte) (s : State) : Result :=
  if s.eng = .halted then .next (s.reject .halted (opOf (.resultAck c)))
  else if s.recPend then .next { s with recPend := false, resume := some (.ack c) }
  else .next (s.reject .noRecordPending (opOf (.resultAck c)))

end Sys2Proof.Machine
end

