-- ==== Sys2Proof/Machine/Control.lean ====
section
/-! DEFINITION. The control commands DELAY (R270) and SHUTDOWN (R272). -/

namespace Sys2Proof.Machine

/-- DELAY up to its suspension (R270). -/
def runDelay (ms : BitVec 24) (s : State) : State :=
  (s.sleep (ms.setWidth 64) .delaying).getD (s.complete .none)

/-- DELAY after its sleep (R270). -/
def delayDone (s : State) : State := s.complete .none

/-- DELAY ms (R270). -/
def execDelay (ms : BitVec 24) (s : State) : Result :=
  issue (.delay ms) preNone (launch (.delay ms) (runDelay ms)) s

/-- SHUTDOWN's effect (R272): the continuation discarded, an outstanding request abandoned, the
transport closed if it is open, and HALTED entered. -/
def State.shutdown (s : State) : State :=
  { s with
    eng := .halted
    cont := .none
    resume := none
    sleepUntil := none
    tpReq := none
    rxDeadline := none
    recPend := false
    sstate := .halted
    tpOpen := false
    tpLog := if s.tpOpen then .closeLine :: s.tpLog else s.tpLog }

/-- SHUTDOWN (R272), an immediate command: accepted in every mode, without effect when HALTED. -/
def execShutdown (s : State) : Result :=
  if s.eng = .halted then .next s else .next s.shutdown

end Sys2Proof.Machine
end

