-- ==== Sys2Proof/Machine/Engine.lean ====
section
/-! DEFINITION. The engine's own step (R60): from the suspension point at which the continuation
stands to the next one, or to the end of the pseudocode, atomically (R11). -/

namespace Sys2Proof.Machine

/-- Whether what ended a suspension belongs to its suspension point. -/
def Cont.fits : Cont → Resume → Bool
  | .start _, .go => true
  | .openAns, .answered .ok => true
  | .openAns, .answered .fail => true
  | .sendAns, .answered .ok => true
  | .sendAns, .answered .fail => true
  | .querySend _, .answered .ok => true
  | .querySend _, .answered .fail => true
  | .schedOpen, .answered .ok => true
  | .schedOpen, .answered .fail => true
  | .recvAns, .answered (.bytes _) => true
  | .recvAns, .answered .timeout => true
  | .recvAns, .deadline => true
  | .flushAns, .answered (.bytes _) => true
  | .flushAns, .answered .timeout => true
  | .flushAns, .deadline => true
  | .queryRecv _, .answered (.bytes _) => true
  | .queryRecv _, .answered .timeout => true
  | .queryRecv _, .deadline => true
  | .schedFlush, .answered (.bytes _) => true
  | .schedFlush, .answered .timeout => true
  | .schedFlush, .deadline => true
  | .delaying, .woke => true
  | .querySettle _, .woke => true
  | .schedPoll, .woke => true
  | .schedBackoff, .woke => true
  | .schedPace, .woke => true
  | .schedAck, .ack _ => true
  | _, _ => false

/-- The first engine step of an accepted run command (R100); the three commands that never wait for
it (SCAN_START, SHUTDOWN, RESULT_ACK) are left as they are. -/
def startRun (i : Instr) (s : State) : State :=
  match i with
  | .encode k a => runEncode k a s
  | .verify => runVerify s
  | .decode => runDecode s
  | .openTp => runOpen s
  | .closeTp => runClose s
  | .send => runSend s
  | .recv => runRecv s
  | .flush => runFlush s
  | .query k sl => runQuery k sl s
  | .transactSn sl => runTransactSn sl s
  | .transactMeas sl => runTransactMeas sl s
  | .delay ms => runDelay ms s
  | .scanStart => s
  | .shutdown => s
  | .resultAck _ => s

/-- The caller of a Query that ended goes on: the QUERY command completes (R168), or a Transact takes
the attempt's outcome (R202). -/
def afterQuery (t : Task) (r : QResult) (s : State) : State :=
  match t with
  | .query k sl => queryDone k sl r s
  | .transact k sl .host => transactHost k sl (transactOutcome k sl .host r s)
  | .transact k sl .scan => transactScan k sl (transactOutcome k sl .scan r s)

/-- A Query went on: it is suspended, or its caller goes on. -/
def afterProgress (t : Task) : Progress → State
  | .suspended s => s
  | .ended s r => afterQuery t r s

/-- The pseudocode from a suspension point on, given what ended the suspension (R60). -/
def runFrom (c : Cont) (r : Resume) (s : State) : State :=
  match c with
  | .start i => startRun i s
  | .openAns => openAnswered r.isOk s
  | .sendAns => sendAnswered r.isOk s
  | .recvAns => recvGot r.rx s
  | .flushAns => flushGot s
  | .delaying => delayDone s
  | .querySend t => afterProgress t (queryAfterSend t r.isOk s)
  | .querySettle t => afterProgress t (queryReceive t s)
  | .queryRecv t => afterQuery t (queryGot t r.rx s).2 (queryGot t r.rx s).1
  | .schedPoll => schedTest s
  | .schedOpen => schedOpened r.isOk s
  | .schedBackoff => schedIdle s
  | .schedFlush => schedScan s
  | .schedPace => schedNextSlot s
  | .schedAck => schedAcked r.ackCode s
  | .none => s
  | .haltIdle => s
  | .spin => s

/-- One engine step (R60): none to take unless something has ended the suspension. -/
def engineMove (s : State) : Result :=
  match s.resume with
  | none => .next s
  | some r =>
    if s.cont.fits r then .next (runFrom s.cont r { s with resume := none })
    else .fault .strayResume

end Sys2Proof.Machine
end

