-- ==== Sys2Proof/Machine/Dispatch.lean ====
section
/-! DEFINITION. The meaning of every command: the CMD-write step of R100 for a word that decodes to the
command. A run command's meaning includes its first engine step unless the schedule defers it. -/

namespace Sys2Proof.Machine

def exec (i : Instr) (s : State) : Host.Outcome State Fault Refusal :=
  match i with
  | .encode k a => Sys2Proof.Machine.execEncode k a s
  | .verify => Sys2Proof.Machine.execVerify s
  | .decode => Sys2Proof.Machine.execDecode s
  | .openTp => Sys2Proof.Machine.execOpen s
  | .closeTp => Sys2Proof.Machine.execClose s
  | .send => Sys2Proof.Machine.execSend s
  | .recv => Sys2Proof.Machine.execRecv s
  | .flush => Sys2Proof.Machine.execFlush s
  | .query k sl => Sys2Proof.Machine.execQuery k sl s
  | .transactSn sl => Sys2Proof.Machine.execTransactSn sl s
  | .transactMeas sl => Sys2Proof.Machine.execTransactMeas sl s
  | .scanStart => Sys2Proof.Machine.execScanStart s
  | .shutdown => Sys2Proof.Machine.execShutdown s
  | .resultAck c => Sys2Proof.Machine.execResultAck c s
  | .delay ms => Sys2Proof.Machine.execDelay ms s

end Sys2Proof.Machine
end

