-- ==== Sys2Proof/Machine/HostAccess.lean ====
section
/-! DEFINITION. Host accesses (20_memory.md): the address map (R71), the widths and alignments (R73),
access errors (R74), the byte order (R75), the side effects (R78) and the configuration lock (R24),
over the registers of 10_state.md. The CMD write that issues a command is in Machine/Agents.lean. -/

namespace Sys2Proof.Machine

/-- The 32-bit registers of R71's first two rows, by name (R23 to R46). -/
inductive Reg where
  | id | cmd | status | err | rej | irqPend | irqEn | chk | nowLo | nowHi | lastScanLo | lastScanHi
  | maxRetries | minScanDelay | scanCount | remaining | numAddr | cmdLen0 | cmdLen1 | txLen | rxLen
  | respStatus | resultLen | fresh | recSlot | evtPop | evtCount | logOvf | accessErr
  | param0 | param1 | param2 | param3 | param4 | param5
deriving DecidableEq, Repr

/-- The offset of each register (R23 to R46). -/
def Reg.offset : Reg → Nat
  | .id => 0x00 | .cmd => 0x04 | .status => 0x08 | .err => 0x0C | .rej => 0x10
  | .irqPend => 0x14 | .irqEn => 0x18 | .chk => 0x1C | .nowLo => 0x20 | .nowHi => 0x24
  | .lastScanLo => 0x28 | .lastScanHi => 0x2C | .maxRetries => 0x30 | .minScanDelay => 0x34
  | .scanCount => 0x38 | .remaining => 0x3C | .numAddr => 0x40 | .cmdLen0 => 0x44
  | .cmdLen1 => 0x48 | .txLen => 0x4C | .rxLen => 0x50 | .respStatus => 0x54
  | .resultLen => 0x58 | .fresh => 0x5C | .recSlot => 0x60 | .evtPop => 0x64
  | .evtCount => 0x68 | .logOvf => 0x6C | .accessErr => 0x70
  | .param0 => 0x80 | .param1 => 0x84 | .param2 => 0x88 | .param3 => 0x8C | .param4 => 0x90
  | .param5 => 0x94

/-- Every register, in address order. -/
def Reg.all : List Reg :=
  [.id, .cmd, .status, .err, .rej, .irqPend, .irqEn, .chk, .nowLo, .nowHi, .lastScanLo,
    .lastScanHi, .maxRetries, .minScanDelay, .scanCount, .remaining, .numAddr, .cmdLen0, .cmdLen1,
    .txLen, .rxLen, .respStatus, .resultLen, .fresh, .recSlot, .evtPop, .evtCount, .logOvf,
    .accessErr, .param0, .param1, .param2, .param3, .param4, .param5]

/-- The byte buffers of R49. -/
inductive Buf where
  | tx | rx | result | cmd (k : Kind) | serial (sl : SlotId) | value (sl : SlotId)
deriving DecidableEq, Repr

/-- A buffer's host address (R49). -/
def Buf.base : Buf → Nat
  | .tx => txBase
  | .rx => rxBase
  | .result => resultBase
  | .cmd k => cmdBase k
  | .serial sl => serialBase sl
  | .value sl => valueBase sl

/-- A buffer's size in bytes (R49). -/
def Buf.size (p : Params) : Buf → Nat
  | .tx => p.txCap
  | .rx => p.rxCap
  | .result => p.rxCap
  | .cmd _ => p.cmdBufCap
  | .serial _ => 256
  | .value _ => 256

/-- Whether the host may write a buffer when it is not locked: RWL, else RO (R49). -/
def Buf.rwl : Buf → Bool
  | .tx => false
  | .rx => true
  | .result => false
  | .cmd _ => true
  | .serial _ => false
  | .value _ => false

/-- What a host address names (R71). -/
inductive Loc where
  | reg (r : Reg)
  /-- ADDR_TABLE[s] -/
  | addrTable (off : Nat)
  /-- word `n` of slot `sl`'s SENT, RECV, NAKC, RETRY -/
  | counters (sl : SlotId) (n : Nat)
  /-- word `n` of slot `sl`'s TS_LO, TS_HI, SN_LEN, VAL_LEN -/
  | reading (sl : SlotId) (n : Nat)
  | buf (b : Buf) (off : Nat)
  | unmapped
deriving DecidableEq, Repr

/-- Whether `a` lies in the `n` bytes from `base`. -/
def inRange (a base n : Nat) : Bool := decide (base ≤ a ∧ a < base + n)

/-- The address map of R71. An address inside a register that is not its first byte names nothing a
legal access could reach (R73), so it counts as unmapped here (DESIGN CHOICE, log entry 17). -/
def locate (p : Params) (a : Nat) : Loc :=
  if a < 0x100 then
    match Reg.all.find? fun r => r.offset == a with
    | some r => .reg r
    | none => .unmapped
  else if inRange a 0x100 p.maxSlots then .addrTable (a - 0x100)
  else if inRange a 0x200 (16 * p.maxSlots) then
    if a % 4 = 0 then .counters (BitVec.ofNat 5 ((a - 0x200) / 16)) (a % 16 / 4) else .unmapped
  else if inRange a 0x400 (16 * p.maxSlots) then
    if a % 4 = 0 then .reading (BitVec.ofNat 5 ((a - 0x400) / 16)) (a % 16 / 4) else .unmapped
  else if inRange a txBase p.txCap then .buf .tx (a - txBase)
  else if inRange a rxBase p.rxCap then .buf .rx (a - rxBase)
  else if inRange a resultBase p.rxCap then .buf .result (a - resultBase)
  else if inRange a (cmdBase .sn) p.cmdBufCap then .buf (.cmd .sn) (a - cmdBase .sn)
  else if inRange a (cmdBase .meas) p.cmdBufCap then .buf (.cmd .meas) (a - cmdBase .meas)
  else if inRange a 0x8000 (256 * p.maxSlots) then
    .buf (.serial (BitVec.ofNat 5 ((a - 0x8000) / 256))) (a % 256)
  else if inRange a 0xA000 (256 * p.maxSlots) then
    .buf (.value (BitVec.ofNat 5 ((a - 0xA000) / 256))) (a % 256)
  else .unmapped

/-- How many bytes an access moves (R70). -/
def Width.bytes : Width → Nat
  | .byte => 1
  | .half => 2
  | .word => 4

/-- The widths and alignments of R73 for what an address names. -/
def Loc.takes (l : Loc) (a : Nat) (w : Width) : Bool :=
  match l with
  | .unmapped => false
  | .reg _ => decide (w = .word)
  | .counters _ _ => decide (w = .word)
  | .reading _ _ => decide (w = .word)
  | .addrTable _ => decide (w = .byte) || (decide (w = .word) && decide (a % 4 = 0))
  | .buf _ _ => decide (a % w.bytes = 0)

/-- `legal(addr, n)` (R74). -/
def legal (p : Params) (a : HostAddr) (w : Width) : Bool := (locate p a.toNat).takes a.toNat w

/-- Bytes at ascending addresses as a little-endian value (R75). -/
def leValue : List Byte → Word
  | [] => 0
  | b :: bs => b.setWidth 32 ||| leValue bs <<< 8

/-- Byte `j` of a written value (R75). -/
def byteOf (v : Word) (j : Nat) : Byte := v.extractLsb' (8 * j) 8

/-- The low word of a 64-bit quantity (R75). -/
def lo32 (t : Time) : Word := t.extractLsb' 0 32

/-- The high word of a 64-bit quantity (R75). -/
def hi32 (t : Time) : Word := t.extractLsb' 32 32

/-- What a read of a register returns (R23 to R46). -/
def State.readReg (s : State) : Reg → Word
  | .id => Config.idWord
  | .cmd => 0
  | .status => s.statusWord
  | .err => s.errWord
  | .rej => s.rejWord
  | .irqPend => s.irqPend.setWidth 32
  | .irqEn => s.irqEn.setWidth 32
  | .chk => s.chkWord
  | .nowLo => lo32 s.now
  | .nowHi => s.nowHiSh
  | .lastScanLo => lo32 s.lastScan
  | .lastScanHi => s.lastHiSh
  | .maxRetries => s.maxRetries.setWidth 32
  | .minScanDelay => s.minScanDelay
  | .scanCount => s.scanCount
  | .remaining => s.remaining
  | .numAddr => s.numAddr.setWidth 32
  | .cmdLen0 => s.cmdLen0.setWidth 32
  | .cmdLen1 => s.cmdLen1.setWidth 32
  | .txLen => s.txLen.setWidth 32
  | .rxLen => s.rxLen.setWidth 32
  | .respStatus => s.respStatus.setWidth 32
  | .resultLen => s.resultLen.setWidth 32
  | .fresh => s.freshWord
  | .recSlot => s.recSlot.setWidth 32
  | .evtPop => s.evtFifo.headD 0
  | .evtCount => s.evtCount.setWidth 32
  | .logOvf => s.logOvf
  | .accessErr => (BitVec.ofBool s.accessErr).setWidth 32
  | .param0 => param0 s.params
  | .param1 => param1 s.params
  | .param2 => param2 s.params
  | .param3 => param3 s.params
  | .param4 => param4 s.params
  | .param5 => param5 s.params

/-- The side effects of a read (R78): EVT_POP pops (R45), NOW_LO and LAST_SCAN_LO load their shadows
(R33, R34). -/
def State.afterRead (s : State) (r : Reg) : State :=
  if r = .evtPop then { s with evtFifo := s.evtFifo.tail }
  else if r = .nowLo then { s with nowHiSh := hi32 s.now }
  else if r = .lastScanLo then { s with lastHiSh := hi32 s.lastScan }
  else s

/-- A word of a slot's counters (R47). -/
def Slot.counterWord (x : Slot) (n : Nat) : Word :=
  match n with
  | 0 => x.sent
  | 1 => x.recv
  | 2 => x.nakc
  | _ => x.retryWord

/-- A word of a slot's reading (R47). -/
def Slot.readingWord (x : Slot) (n : Nat) : Word :=
  match n with
  | 0 => lo32 x.ts
  | 1 => hi32 x.ts
  | 2 => x.snLen.setWidth 32
  | _ => x.valLen.setWidth 32

/-- The `w.bytes` bytes of a buffer from offset `off`; bytes past its end read 0 (R74). -/
def State.bufBytes (s : State) (b : Buf) (off : Nat) (w : Width) : List Byte :=
  (List.range w.bytes).map fun j =>
    if off + j < b.size s.params then s.byteAt (b.base + (off + j)) else 0

/-- The `w.bytes` bytes of ADDR_TABLE from slot `off`; bytes past its end read 0 (log entry 6). -/
def State.addrBytes (s : State) (off : Nat) (w : Width) : List Byte :=
  (List.range w.bytes).map fun j =>
    if off + j < s.params.maxSlots then (s.slot (BitVec.ofNat 5 (off + j))).addr else 0

/-- `MemRead(addr, n)` (R74): the value returned. -/
def State.memRead (s : State) (a : HostAddr) (w : Width) : Word :=
  if legal s.params a w then
    match locate s.params a.toNat with
    | .reg r => s.readReg r
    | .addrTable off => leValue (s.addrBytes off w)
    | .counters sl n => (s.slot sl).counterWord n
    | .reading sl n => (s.slot sl).readingWord n
    | .buf b off => leValue (s.bufBytes b off w)
    | .unmapped => 0
  else 0

/-- `MemRead(addr, n)` (R74): the state it leaves. -/
def State.afterMemRead (s : State) (a : HostAddr) (w : Width) : State :=
  if legal s.params a w then
    match locate s.params a.toNat with
    | .reg r => s.afterRead r
    | .addrTable _ => s
    | .counters _ _ => s
    | .reading _ _ => s
    | .buf _ _ => s
    | .unmapped => s
  else { s with accessErr := true }

/-- The RWL registers (R35 to R41). -/
def Reg.rwl : Reg → Bool
  | .maxRetries => true
  | .minScanDelay => true
  | .scanCount => true
  | .numAddr => true
  | .cmdLen0 => true
  | .cmdLen1 => true
  | .rxLen => true
  | _ => false

/-- Whether the location is RWL (R24, R47, R49). -/
def Loc.rwl : Loc → Bool
  | .reg r => r.rwl
  | .addrTable _ => true
  | .counters _ _ => false
  | .reading _ _ => false
  | .buf b _ => b.rwl
  | .unmapped => false

/-- A write to a register, its write effect included (R31, R44, R78); RO and C registers ignore it.
CMD's own effect is the issue of a command (Machine/Agents.lean). -/
def State.writeReg (s : State) (v : Word) : Reg → State
  | .irqPend => { s with irqPend := s.irqPend &&& ~~~(v.setWidth 6) }
  | .irqEn => { s with irqEn := v.setWidth 6 }
  | .maxRetries => { s with maxRetries := v.setWidth 8 }
  | .minScanDelay => { s with minScanDelay := v }
  | .scanCount => { s with scanCount := v }
  | .numAddr => { s with numAddr := v.setWidth 6 }
  | .cmdLen0 => { s with cmdLen0 := v.setWidth 16 }
  | .cmdLen1 => { s with cmdLen1 := v.setWidth 16 }
  | .rxLen => { s with rxLen := v.setWidth 9 }
  | .accessErr => { s with accessErr := s.accessErr && !v.getLsbD 0 }
  | _ => s

/-- The bytes a write of width `w` stores, those at or past `room` dropped (R74). -/
def storedBytes (v : Word) (w : Width) (room : Nat) : List Byte :=
  (List.range (min w.bytes room)).map fun j => byteOf v j

/-- Write ADDR_TABLE bytes from slot `off` (R47). -/
def State.putAddrs (s : State) (off : Nat) : List Byte → State
  | [] => s
  | b :: bs =>
    State.putAddrs
      (s.setSlot (BitVec.ofNat 5 off) { s.slot (BitVec.ofNat 5 off) with addr := b }) (off + 1) bs

/-- `MemWrite(addr, n, v)` (R74), but for the issue of a command by a CMD write. -/
def State.memWrite (s : State) (a : HostAddr) (w : Width) (v : Word) : State :=
  if legal s.params a w then
    if (locate s.params a.toNat).rwl && s.locked then { s with accessErr := true }
    else
      match locate s.params a.toNat with
      | .reg r => s.writeReg v r
      | .addrTable off => s.putAddrs off (storedBytes v w (s.params.maxSlots - off))
      | .counters _ _ => s
      | .reading _ _ => s
      | .buf b off =>
        if b.rwl then s.putBytes (b.base + off) (storedBytes v w (b.size s.params - off)) else s
      | .unmapped => s
  else { s with accessErr := true }

/-- Whether a host write issues a command: a 4-byte write to CMD (R25, R100). -/
def issuesCommand (a : HostAddr) (w : Width) : Bool := decide (a = 0x0004) && decide (w = .word)

end Sys2Proof.Machine
end

