-- ==== Sys2Proof/Machine/Agents.lean ====
section
/-! DEFINITION. The steps of the agents other than the engine (R5, R11): the host's accesses and the
issue of command words (R100), the timebase's tick (R50, R166), the transport's answers (R89, R164,
R166) and reset (R341). -/

namespace Sys2Proof.Machine

/-- The CMD-write step of R100: a word that decodes to a command has that command's meaning; any
other word is rejected, with Halted if the block is halted and with IllegalCommand if not (R105). -/
def issueWord (w : Word) (s : State) : Result :=
  match Sys2Proof.decode w with
  | .ok i => exec i s
  | .error _ =>
    .next (s.reject (if s.eng = .halted then .halted else .illegalCommand) (fieldOp w))

/-- A host read is one step (R77); the value it returns is put where the host sees it. -/
def hostRead (a : HostAddr) (w : Width) (s : State) : State :=
  { s.afterMemRead a w with hostData := s.memRead a w }

/-- A host write is one step (R77). -/
def hostWrite (a : HostAddr) (w : Width) (v : Word) (s : State) : Result :=
  if issuesCommand a w then issueWord v s else .next (s.memWrite a w v)

/-- A tick ends the sleep whose deadline it reaches (R11). -/
def State.wakeSleeper (s : State) : State :=
  match s.sleepUntil with
  | some d => if d ≤ s.now then { s with sleepUntil := none, resume := some .woke } else s
  | none => s

/-- The tick that makes NOW = RX_DEADLINE ends the receive with Deadline and abandons the request
(R166). -/
def State.expireRx (s : State) : State :=
  match s.rxDeadline with
  | some d =>
    if s.now = d then { s with tpReq := none, rxDeadline := none, resume := some .deadline } else s
  | none => s

/-- A timebase step: NOW + 1 (R50), then the deadlines it reaches (R317). -/
def tick (s : State) : State := ({ s with now := s.now + 1 }.wakeSleeper).expireRx

/-- Whether an answer is one R164 allows for the request. -/
def TpReq.allows (cap : Nat) : TpReq → TpAnswer → Bool
  | .openLine _ _ _ _, .ok => true
  | .openLine _ _ _ _, .fail => true
  | .sendBytes _, .ok => true
  | .sendBytes _, .fail => true
  | .recvBytes _ _, .bytes b => decide (b.length ≤ cap)
  | .recvBytes _ _, .timeout => true
  | _, _ => false

/-- Whether an answer still counts: a receive's only while NOW < RX_DEADLINE (R166). -/
def State.inTime (s : State) : Bool :=
  match s.rxDeadline with
  | some d => decide (s.now < d)
  | none => true

/-- A transport answer (R89): matched to the outstanding request and taken, or discarded when its
request was abandoned or its deadline has passed, changing no state (log entry 12). -/
def transportAnswer (tag : Nat) (a : TpAnswer) (s : State) : Result :=
  match s.tpReq with
  | some o =>
    if o.tag = tag then
      if o.req.allows s.params.rxCap a then
        if s.inTime then
          .next { s with tpReq := none, rxDeadline := none, resume := some (.answered a) }
        else .next s
      else .refused .transportContract
    else if tag < s.tpSeq then .next s
    else .refused .transportContract
  | none => if tag < s.tpSeq then .next s else .refused .transportContract

/-- Reset (R341): the state of R340, with another draw of the unwritten bytes (I8). The schedule, the
numbering of requests and what the host has read are not the block's, and stay (DESIGN CHOICE, log
entry 15). -/
def resetStep (s : State) : State :=
  { State.resetWith s.params with
    epoch := s.epoch + 1
    tpSeq := s.tpSeq
    inputs := s.inputs
    defer := s.defer
    hostData := s.hostData }

/-- One step of an agent other than the engine (R11). -/
def perform (e : Event) (s : State) : Result :=
  match e with
  | .read a w => .next (hostRead a w s)
  | .write a w v => hostWrite a w v s
  | .tick => .next (tick s)
  | .answer tag a => transportAnswer tag a s
  | .reset => .next (resetStep s)

/-- The engine's step that follows another agent's step: taken at once unless the schedule defers it
(log entry 3). An engine step that never ends is no step (log entry 9). -/
def settle (s : State) : Result :=
  if s.cont = .spin then .fault .endlessEngineStep
  else if s.defer then .next s
  else
    match engineMove s with
    | .next s' => if s'.cont = .spin then .fault .endlessEngineStep else .next s'
    | .fault f => .fault f
    | .refused r => .refused r

/-- An agent's step and the engine's step after it. -/
def performThenSettle (e : Event) (s : State) : Result :=
  match perform e s with
  | .next s' => settle s'
  | .fault f => .fault f
  | .refused r => .refused r

/-- One step of the block with its environment: the next step of the schedule, in R85's total order.
A tick waits for a runnable engine: processing takes no time (R363). With nothing scheduled a
runnable engine steps, and any other state waits as it is. -/
def nextStep (s : State) : Result :=
  match s.inputs with
  | [] => settle { s with defer := false }
  | m :: rest =>
    if s.resume.isSome && decide (m.event = .tick) then settle { s with defer := false }
    else performThenSettle m.event { s with inputs := rest, defer := m.defer }

/-- The schedule entry that writes a command word to CMD (R100, R121 ISSUE). -/
def issueMove (w : Word) : Move := ⟨.write 0x0004 .word w, false⟩

end Sys2Proof.Machine
end

