-- ==== Sys2Proof/Machine/Step.lean ====
section
/-! DEFINITION. The step of the block (R85), and the placing of a command word where the step takes
its next one: a 4-byte host write to CMD at the head of the schedule (R100; R87: nothing is
fetched). -/

namespace Sys2Proof.Machine

/-- One step: `nextStep`. -/
def step (s : State) : Host.Outcome State Fault Refusal := nextStep s

/-- `s` with the command word `w` (its low `nbits` bits) as the host's next access, a write to CMD
after which the engine steps at once (log entry 4). -/
def State.withFetchWord (s : State) (nbits w : Nat) : State :=
  { s with inputs := issueMove (BitVec.ofNat 32 (w % 2 ^ nbits)) :: s.inputs }

end Sys2Proof.Machine
end

