-- ==== Sys2Proof/Machine/HostProgram.lean ====
section
/-! DEFINITION. The host pseudo-instructions of R121 as schedule entries, and the tests by which
WAIT_IDLE and WAIT_REC end. The loops themselves are the host's program, which lies outside the
block. -/

namespace Sys2Proof.Machine

/-- WR32 addr, v -> MemWrite(addr, 4, v) (R121). -/
def wr32 (a : HostAddr) (v : Word) : Move := ⟨.write a .word v, false⟩

/-- WR8 addr, v -> MemWrite(addr, 1, v) (R121). -/
def wr8 (a : HostAddr) (v : Byte) : Move := ⟨.write a .byte (v.setWidth 32), false⟩

/-- RD32 addr -> MemRead(addr, 4) (R121). -/
def rd32 (a : HostAddr) : Move := ⟨.read a .word, false⟩

/-- WRBYTES addr, t -> WR8 addr+i, t[i] for each i (R121). -/
def wrBytes (a : HostAddr) : List Byte → List Move
  | [] => []
  | b :: bs => wr8 a b :: wrBytes (a + 1) bs

/-- ISSUE of an assembler line -> WR32 0x0004, its command word; none where the assembler refuses the
line (R120, R121). -/
def issueLine (l : Line) : Option Move := l.assemble.map fun i => issueMove (encode i)

/-- The read WAIT_IDLE and WAIT_REC repeat: RD32 0x0008 (R121). -/
def pollStatus : Move := rd32 0x0008

/-- WAIT_IDLE ends when the STATUS word read has bit 0 (BUSY) = 0 (R121). -/
def idleSeen (s : State) : Bool := !s.hostData.getLsbD 0

/-- WAIT_REC ends when the STATUS word read has bit 4 (REC_PEND) = 1 (R121). -/
def recordSeen (s : State) : Bool := s.hostData.getLsbD 4

end Sys2Proof.Machine
end

