-- ==== Sys2Proof/Safety.lean ====
section
/-! DEFINITION. What the claims are stated in: the invariant of the block (which states its rules can
reach), the configuration and reading registers of a state, and what a schedule entry is. -/

namespace Sys2Proof.Machine

/-- Nothing is waited for: no sleep, no outstanding request, no receive deadline. -/
def State.NoWait (s : State) : Prop := s.sleepUntil = none ∧ s.tpReq = none ∧ s.rxDeadline = none

/-- The engine sleeps, or a tick has ended its sleep (R11). -/
def State.Sleeping (s : State) : Prop :=
  s.tpReq = none ∧ s.rxDeadline = none ∧
    ((s.sleepUntil ≠ none ∧ s.resume = none) ∨ (s.sleepUntil = none ∧ s.resume = some .woke))

/-- The engine waits for the answer to an open or a send, or has it (R164). -/
def State.Calling (s : State) (isReq : TpReq → Bool) : Prop :=
  s.sleepUntil = none ∧ s.rxDeadline = none ∧
    ((s.resume = none ∧ ∃ o, s.tpReq = some o ∧ isReq o.req = true ∧ o.tag < s.tpSeq) ∨
      (s.tpReq = none ∧ (s.resume = some (.answered .ok) ∨ s.resume = some (.answered .fail))))

/-- The engine is in a receive, or the receive has ended (R165, R166). -/
def State.Receiving (s : State) : Prop :=
  s.sleepUntil = none ∧
    ((s.resume = none ∧ s.rxDeadline ≠ none ∧
        ∃ o, s.tpReq = some o ∧ (∃ c t, o.req = .recvBytes c t) ∧ o.tag < s.tpSeq) ∨
      (s.tpReq = none ∧ s.rxDeadline = none ∧
        (s.resume = some .deadline ∨ s.resume = some (.answered .timeout) ∨
          ∃ b, s.resume = some (.answered (.bytes b)) ∧ b.length ≤ s.params.rxCap)))

/-- An open request. -/
def TpReq.isOpen : TpReq → Bool
  | .openLine _ _ _ _ => true
  | .sendBytes _ => false
  | .recvBytes _ _ => false
  | .closeLine => false

/-- A send request. -/
def TpReq.isSend : TpReq → Bool
  | .sendBytes _ => true
  | .openLine _ _ _ _ => false
  | .recvBytes _ _ => false
  | .closeLine => false

/-- The mode in which an activation of Query runs: CMD for the host's, SCHED for the scheduler's. -/
def Task.eng : Task → Eng
  | .query _ _ => .cmd
  | .transact _ _ .host => .cmd
  | .transact _ _ .scan => .sched

/-- Whether a command is a run command (R100): all but the immediate commands and SCAN_START. -/
def runCommand : Instr → Bool
  | .encode _ _ => true
  | .verify => true
  | .decode => true
  | .openTp => true
  | .closeTp => true
  | .send => true
  | .recv => true
  | .flush => true
  | .query _ _ => true
  | .transactSn _ => true
  | .transactMeas _ => true
  | .delay _ => true
  | .scanStart => false
  | .shutdown => false
  | .resultAck _ => false

/-- R60 and R22: in CMD and SCHED the engine is at exactly one suspension point, waiting for exactly
what that point waits for or just released from it; in READY and HALTED the continuation is empty. -/
def State.EngineOk (s : State) : Prop :=
  match s.cont with
  | .none => (s.eng = .ready ∨ s.eng = .halted) ∧ s.resume = none ∧ s.NoWait
  | .start i => runCommand i = true ∧ s.eng = .cmd ∧ s.resume = some .go ∧ s.NoWait
  | .openAns => s.eng = .cmd ∧ s.Calling TpReq.isOpen
  | .sendAns => s.eng = .cmd ∧ s.Calling TpReq.isSend
  | .recvAns => s.eng = .cmd ∧ s.Receiving
  | .flushAns => s.eng = .cmd ∧ s.Receiving
  | .delaying => s.eng = .cmd ∧ s.Sleeping
  | .querySend t => s.eng = t.eng ∧ s.Calling TpReq.isSend
  | .querySettle t => s.eng = t.eng ∧ s.Sleeping
  | .queryRecv t => s.eng = t.eng ∧ s.Receiving
  | .schedPoll => s.eng = .sched ∧ s.Sleeping
  | .schedOpen => s.eng = .sched ∧ s.Calling TpReq.isOpen
  | .schedBackoff => s.eng = .sched ∧ s.Sleeping
  | .schedFlush => s.eng = .sched ∧ s.Receiving
  | .schedPace => s.eng = .sched ∧ s.Sleeping
  | .schedAck =>
    s.eng = .sched ∧ s.NoWait ∧
      ((s.recPend = true ∧ s.resume = none) ∨ (s.recPend = false ∧ ∃ c, s.resume = some (.ack c)))
  | .haltIdle => s.eng = .sched ∧ s.resume = none ∧ s.NoWait
  | .spin => False

/-- A record is presented only while the scheduler waits for its acknowledgement (R240). -/
def State.RecordOk (s : State) : Prop := s.recPend = true → s.cont = .schedAck

/-- The event log never holds more than LOG_DEPTH events (R45, R306). -/
def State.LogOk (s : State) : Prop := s.evtFifo.length ≤ s.params.logDepth

/-- TX_LEN is 0 when TX_VALID = 0, and never more than TX_CAP (R41, R131). -/
def State.TxOk (s : State) : Prop :=
  (s.txValid = false → s.txLen = 0) ∧ s.txLen.toNat ≤ s.params.txCap

/-- HALTED and SSTATE = HALTED go together, with the transport closed (R272, R28). -/
def State.HaltOk (s : State) : Prop :=
  (s.sstate = .halted ↔ s.eng = .halted) ∧ (s.eng = .halted → s.tpOpen = false)

/-- The invariant of the block. -/
structure State.Inv (s : State) : Prop where
  params : s.params.wf = true
  memory : Memory.wf s.mem = true
  engine : s.EngineOk
  record : s.RecordOk
  log : s.LogOk
  tx : s.TxOk
  halt : s.HaltOk

/-- The locations of R351: the configuration a running command or the scheduler reads, but for the
buffer bytes. RXBUF and RX_LEN are left out, since a receive writes them. -/
structure ConfigView where
  maxRetries : Byte
  minScanDelay : Word
  scanCount : Word
  numAddr : BitVec 6
  cmdLen0 : BitVec 16
  cmdLen1 : BitVec 16
  addrs : List Byte
deriving DecidableEq, Repr

/-- The configuration of a state (R351). -/
def State.config (s : State) : ConfigView where
  maxRetries := s.maxRetries
  minScanDelay := s.minScanDelay
  scanCount := s.scanCount
  numAddr := s.numAddr
  cmdLen0 := s.cmdLen0
  cmdLen1 := s.cmdLen1
  addrs := s.slots.toList.map Slot.addr

/-- The reading of a slot: what a failed Transact leaves unchanged (R215). -/
structure ReadingView where
  snLen : Byte
  valLen : Byte
  ts : Time
  freshBit : Bool
deriving DecidableEq, Repr

/-- The reading registers of a slot (R215). -/
def State.readingOf (s : State) (sl : SlotId) : ReadingView where
  snLen := (s.slot sl).snLen
  valLen := (s.slot sl).valLen
  ts := (s.slot sl).ts
  freshBit := s.fresh.getLsbD sl.toNat

/-- The schedule entry of a tick after which the engine steps at once. -/
def tickMove : Move := ⟨.tick, false⟩

/-- The schedule entry of a transport answer after which the engine steps at once. -/
def answerMove (tag : Nat) (a : TpAnswer) : Move := ⟨.answer tag a, false⟩

/-- The engine is suspended at `c` on the transport request `req`, numbered `tag`, and the schedule
goes on with `m` and then `rest`. -/
structure State.Calls (s : State) (c : Cont) (tag : Nat) (req : TpReq) (m : Move)
    (rest : List Move) : Prop where
  cont : s.cont = c
  tpReq : s.tpReq = some ⟨tag, req⟩
  rxDeadline : s.rxDeadline = none
  sleepUntil : s.sleepUntil = none
  resume : s.resume = none
  inputs : s.inputs = m :: rest

/-- The engine is suspended at `c` in a receive with deadline `d`, its request numbered `tag`, and the
schedule goes on with `m` and then `rest`. -/
structure State.Receives (s : State) (c : Cont) (tag : Nat) (d : Time) (m : Move)
    (rest : List Move) : Prop where
  cont : s.cont = c
  tpReq : ∃ cap ms, s.tpReq = some ⟨tag, .recvBytes cap ms⟩
  rxDeadline : s.rxDeadline = some d
  sleepUntil : s.sleepUntil = none
  resume : s.resume = none
  inputs : s.inputs = m :: rest

/-- The engine sleeps at `c`, the next step of the schedule is a tick, and that tick reaches the
sleep's deadline. -/
structure State.Wakes (s : State) (c : Cont) (rest : List Move) : Prop where
  cont : s.cont = c
  sleepUntil : s.sleepUntil = some (s.now + 1)
  tpReq : s.tpReq = none
  rxDeadline : s.rxDeadline = none
  resume : s.resume = none
  inputs : s.inputs = tickMove :: rest

/-- The TRANSACT command of a kind (R200, R201). -/
def transactOf : Kind → SlotId → Instr
  | .sn, sl => .transactSn sl
  | .meas, sl => .transactMeas sl

/-- The request frame of R110 for address `a` and payload `p`. -/
def requestFrame (a : Byte) (p : List Byte) : List Byte :=
  (a ||| 0x80) :: p ++ [0x03, xorBytes p ^^^ 0x03]

/-- What the byte sequence `bs` stored at host address `base` means for reads: it reads back there, and
every other byte reads as before. -/
def State.StoresAt (s t : State) (base : Nat) (bs : List Byte) : Prop :=
  t.bytesAt base bs.length = bs ∧
    ∀ a, a < base ∨ base + bs.length ≤ a → t.byteAt a = s.byteAt a

/-! ### What the event log holds after words are logged -/

/-- The FIFO after the words `ws` are logged in order: as many as fit are appended (R306). -/
def State.fifoAfter (s : State) (ws : List Word) : List Word :=
  s.evtFifo ++ ws.take (s.params.logDepth - s.evtFifo.length)

/-- LOG_OVF after the words `ws` are logged in order: it counts those that did not fit (R306). -/
def State.ovfAfter (s : State) (ws : List Word) : Word :=
  s.logOvf + BitVec.ofNat 32 (ws.length - (s.params.logDepth - s.evtFifo.length))

/-! ### How an attempt of a Transact fails -/

/-- What a failed attempt of a Transact leaves: its failure code (R210), and what the part of its Query
(R169) that the step runs leaves in the registers and buffers it may write. -/
structure Failed where
  code : Code
  now : Time
  rxLen : BitVec 9
  chk : ChkReg
  respStatus : Byte
  resultLen : Byte
  /-- Whether the answer was decoded, so that RECV counts it. -/
  decoded : Bool
  /-- The bytes stored in RXBUF. -/
  rx : List Byte
  /-- The bytes stored in RESULT. -/
  result : List Byte

/-- A failure with code `c` that has written nothing. -/
def State.failedAs (s : State) (c : Code) : Failed where
  code := c
  now := s.now
  rxLen := s.rxLen
  chk := s.chk
  respStatus := s.respStatus
  resultLen := s.resultLen
  decoded := false
  rx := []
  result := []

/-- A status that is no success for the kind (R210). -/
def failingStatus (p : Params) (k : Kind) (st : Byte) : Prop :=
  match k with
  | .sn => st = 0x15 ∨ (p.snStatusSigned = true ∧ 0x80 ≤ st.toNat)
  | .meas => st ≠ 0x06

/-- The step that comes next ends the running attempt of a Transact of kind `k` on slot `sl` in failure,
and the schedule goes on with `rest`. One constructor per way R169 and R210 give: the send answered
Fail, the receive's deadline, a Timeout answer, no bytes, a wrong checksum, a status that is no
success (a NAK, or unexpected). -/
inductive State.AttemptFails (s : State) (k : Kind) (sl : SlotId) (o : Owner) (rest : List Move) :
    Failed → Prop where
  | send (tag : Nat) (f : List Byte)
      (h : s.Calls (.querySend (.transact k sl o)) tag (.sendBytes f) (answerMove tag .fail) rest) :
      AttemptFails s k sl o rest (s.failedAs .sendFailure)
  | deadline (tag : Nat) (d : Time)
      (h : s.Receives (.queryRecv (.transact k sl o)) tag d tickMove rest) (hd : d = s.now + 1) :
      AttemptFails s k sl o rest
        { s.failedAs .timeoutError with now := s.now + 1, rxLen := 0 }
  | timeout (tag : Nat) (d : Time)
      (h : s.Receives (.queryRecv (.transact k sl o)) tag d (answerMove tag .timeout) rest)
      (hd : s.now < d) :
      AttemptFails s k sl o rest { s.failedAs .timeoutError with rxLen := 0 }
  | empty (tag : Nat) (d : Time)
      (h : s.Receives (.queryRecv (.transact k sl o)) tag d (answerMove tag (.bytes [])) rest)
      (hd : s.now < d) :
      AttemptFails s k sl o rest { s.failedAs .emptyResponse with rxLen := 0 }
  | mismatch (tag : Nat) (d : Time) (b : List Byte) (c : Byte)
      (h : s.Receives (.queryRecv (.transact k sl o)) tag d (answerMove tag (.bytes b)) rest)
      (hd : s.now < d) (hb : b.length ≤ s.params.rxCap) (hc : decodeFrame b = .mismatch c) :
      AttemptFails s k sl o rest
        { s.failedAs .checksumMismatch with
          rxLen := BitVec.ofNat 9 b.length, chk := ⟨c, b.getLastD 0⟩, rx := b }
  | status (tag : Nat) (d : Time) (b : List Byte) (st : Byte) (p : List Byte) (c : Byte)
      (h : s.Receives (.queryRecv (.transact k sl o)) tag d (answerMove tag (.bytes b)) rest)
      (hd : s.now < d) (hb : b.length ≤ s.params.rxCap) (hc : decodeFrame b = .ok st p c)
      (hf : failingStatus s.params k st) :
      AttemptFails s k sl o rest
        { s.failedAs (if st = 0x15 then .negativeAcknowledge else .unexpectedStatus) with
          rxLen := BitVec.ofNat 9 b.length, chk := ⟨c, b.getLastD 0⟩, respStatus := st
          resultLen := BitVec.ofNat 8 p.length, decoded := true, rx := b, result := p }

/-- The events a failed attempt logs: a NAK none, any other failure its code (R202, R307). -/
def Failed.events (x : Failed) (k : Kind) (sl : SlotId) : List Word :=
  if x.code = .negativeAcknowledge then [] else [eventWord x.code 0 sl k]

/-- The slot of a failed attempt: RECV counts a decoded answer, NAKC a NAK (R169, R211). -/
def Failed.slotAfter (x : Failed) (y : Slot) : Slot :=
  { y with
    recv := if x.decoded = true then y.recv + 1 else y.recv
    nakc := if x.code = .negativeAcknowledge then y.nakc + 1 else y.nakc }

/-- `keep_retry` with RSTATE `r` after `n` attempts (R202). -/
def Slot.withRetry (y : Slot) (k : Kind) (n : Byte) (r : RState) : Slot :=
  match k with
  | .sn => { y with snAtt := n, snRState := r }
  | .meas => { y with measAtt := n, measRState := r }

/-- What an answer stored in RXBUF and RESULT means for reads: both read back, and every other byte reads
as before. -/
def State.StoresAnswer (s t : State) (rx result : List Byte) : Prop :=
  t.bytesAt 0x2000 rx.length = rx ∧ t.bytesAt 0x2100 result.length = result ∧
    ∀ a, (a < 0x2000 ∨ 0x2000 + rx.length ≤ a) → (a < 0x2100 ∨ 0x2100 + result.length ≤ a) →
      t.byteAt a = s.byteAt a

/-! ### What the scheduler goes on with -/

/-- `t` is `u` after SCANNING has begun slot `sl` (R231, R238): the first attempt of its serial-number
Transact is sent, or it fails at once with EncodingOverflow, logged, and the pacing starts. -/
def State.SlotStarted (u t : State) (sl : SlotId) : Prop :=
  (u.cmdLen0.toNat + 3 ≤ u.params.txCap →
    { t with mem := u.mem } = { u with
      cont := .querySend (.transact .sn sl .scan), sstate := .scanning, curSlot := sl
      attempts := 1, rstate := .attempting, lastFail := .none, txValid := true
      txLen := BitVec.ofNat 16 (u.cmdLen0.toNat + 3)
      chk := ⟨xorBytes (u.payload .sn) ^^^ 0x03, u.chk.rcvd⟩
      tpReq := some ⟨u.tpSeq, .sendBytes (requestFrame (u.slot sl).addr (u.payload .sn))⟩
      tpSeq := u.tpSeq + 1
      tpLog := .sendBytes (requestFrame (u.slot sl).addr (u.payload .sn)) :: u.tpLog } ∧
    u.StoresAt t 0x1000 (requestFrame (u.slot sl).addr (u.payload .sn))) ∧
  (u.params.txCap < u.cmdLen0.toNat + 3 →
    { t with slots := u.slots } = { u with
      cont := .schedPace, sleepUntil := some (u.now + u.params.paceMs.setWidth 64)
      sstate := .scanning, curSlot := sl, attempts := 1, rstate := .failed, lastFail := .none
      txValid := false, txLen := 0
      evtFifo := u.fifoAfter [eventWord .encodingOverflow 0 sl .sn]
      logOvf := u.ovfAfter [eventWord .encodingOverflow 0 sl .sn]
      irqPend := u.irqPend ||| 0b100000 } ∧
    t.slot sl = { u.slot sl with snAtt := 1, snRState := .failed } ∧
    ∀ sl', sl' ≠ sl → t.slot sl' = u.slot sl')

/-- `u` after the end of its scan pass (R241, then R232, R233, R242): closed, the time recorded, SCAN_DONE;
then idle for good on a spent budget, the open requested again where there is no minimum delay, and
else the first poll sleep (the delay has just begun). -/
def State.passCompleted (u : State) : State :=
  if u.unbounded = false ∧ u.remaining = 0 then
    { u with
      tpOpen := false, tpLog := .closeLine :: u.tpLog, lastScan := u.now, lastValid := true
      irqPend := u.irqPend ||| 0b010000, sstate := .idle, cont := .haltIdle }
  else if u.minScanDelay = 0 then
    { u with
      tpOpen := false, lastScan := u.now, lastValid := true
      irqPend := u.irqPend ||| 0b010000, sstate := .waiting, cont := .schedOpen
      tpReq := some ⟨u.tpSeq, .openLine u.params.baud u.params.dataBits u.params.parity
        u.params.stopBits⟩
      tpSeq := u.tpSeq + 1
      tpLog := .openLine u.params.baud u.params.dataBits u.params.parity u.params.stopBits ::
        .closeLine :: u.tpLog }
  else
    { u with
      tpOpen := false, tpLog := .closeLine :: u.tpLog, lastScan := u.now, lastValid := true
      irqPend := u.irqPend ||| 0b010000, sstate := .waiting, cont := .schedPoll
      sleepUntil := some (u.now + u.params.pollMs.setWidth 64) }

/-- Whether the end of a scan pass meets the wait loop of R233 with POLL_MS = 0, which never ends (log
entry 9). -/
def State.endlessWait (s : State) : Prop :=
  s.params.pollMs = 0 ∧ s.minScanDelay ≠ 0 ∧ (s.unbounded = true ∨ s.remaining ≠ 0)

/-! ### Host accesses -/

/-- The RWL registers and their offsets (R35 to R41, R351). -/
def rwlRegisters : List HostAddr := [0x0030, 0x0034, 0x0038, 0x0040, 0x0044, 0x0048, 0x0050]

/-- The bases of the RWL buffers RXBUF, CMDBUF0 and CMDBUF1, each with its size (R49, R351). -/
def rwlBuffers (p : Params) : List (Nat × Nat) :=
  [(0x2000, p.rxCap), (0x3000, p.cmdBufCap), (0x4000, p.cmdBufCap)]

/-- Whether the `n` bytes from `base` hold address `a`. -/
def covers (a base n : Nat) : Prop := base ≤ a ∧ a < base + n

/-- The addresses R71 maps, in a build with parameters `p`: the registers, PARAM0 to PARAM5, ADDR_TABLE,
the slot words, and the buffers. -/
def mappedAddr (p : Params) (a : Nat) : Prop :=
  a < 0x74 ∨ covers a 0x80 0x18 ∨ covers a 0x100 p.maxSlots ∨ covers a 0x200 (16 * p.maxSlots) ∨
    covers a 0x400 (16 * p.maxSlots) ∨ covers a 0x1000 p.txCap ∨ covers a 0x2000 p.rxCap ∨
    covers a 0x2100 p.rxCap ∨ covers a 0x3000 p.cmdBufCap ∨ covers a 0x4000 p.cmdBufCap ∨
    covers a 0x8000 (256 * p.maxSlots) ∨ covers a 0xA000 (256 * p.maxSlots)

/-- The widths R73 gives an address: words for registers and slot words, bytes and words for ADDR_TABLE,
any width for buffers. -/
def widthAllowed (a : Nat) (w : Width) : Prop :=
  (a < 0x100 → w = .word) ∧ (0x100 ≤ a → a < 0x200 → w ≠ .half) ∧
    (0x200 ≤ a → a < 0x600 → w = .word)

/-- `n` steps of the block, stopping at the first that gives no next state. -/
def stepN : Nat → State → Result
  | 0, s => .next s
  | n + 1, s =>
    match step s with
    | .next t => stepN n t
    | .fault f => .fault f
    | .refused r => .refused r

/-- The schedule of one retry after a NAK answered at once: the NAK to the receive numbered `tag`, Ok to
the next attempt's send, and the ticks of its settle interval. -/
def nakRound (tag : Nat) (nak : List Byte) (settle : Nat) : List Move :=
  answerMove tag (.bytes nak) :: answerMove (tag + 1) .ok :: List.replicate settle tickMove

/-- `n` such retries in a row. -/
def nakRounds : Nat → Nat → List Byte → Nat → List Move
  | 0, _, _, _ => []
  | n + 1, tag, nak, settle => nakRound tag nak settle ++ nakRounds n (tag + 2) nak settle

/-- Whether the next step of the schedule is a tick. -/
def State.tickNext (s : State) : Bool :=
  match s.inputs with
  | [] => false
  | m :: _ => decide (m.event = .tick)

/-- Whether the next step of the schedule is reset. -/
def State.resetNext (s : State) : Bool :=
  match s.inputs with
  | [] => false
  | m :: _ => decide (m.event = .reset)

end Sys2Proof.Machine
end

