-- ==== Sys2Proof/Certificates/Slice0/Obligations.lean ====
section
/-! DEFINITION. The statements for the provers, each citing the rule of spec/ it formalises. `s.defer =
false` says that the schedule lets the engine's first step follow the host's write at once (log entry 3);
`DeferredStartRunsTheSame` says what happens otherwise. -/

open Sys2Proof Sys2Proof.Machine

/-! ### Reset -/

/-- R340, R51: the reset value of every register and of the hidden state, the retry loop's `last` among
it, for every build; the model's own fields (log entry 2) are not spoken of. No buffer byte is written.
PARAM0 to PARAM5 are the words R46 gives, read from the build with the defaults. -/
def Obligations.ResetLeavesResetValues : Prop :=
  ∀ p : Params,
    (State.resetWith p).eng = .ready ∧ (State.resetWith p).cont = .none ∧
    (State.resetWith p).sleepUntil = none ∧ (State.resetWith p).tpReq = none ∧
    (State.resetWith p).rxDeadline = none ∧ (State.resetWith p).statusWord = 0 ∧
    (State.resetWith p).errWord = 0 ∧ (State.resetWith p).rejWord = 0 ∧
    (State.resetWith p).chkWord = 0 ∧ (State.resetWith p).irqPend = 0 ∧
    (State.resetWith p).irqEn = 0 ∧ (State.resetWith p).irqOut = false ∧
    (State.resetWith p).now = 0 ∧ (State.resetWith p).nowHiSh = 0 ∧
    (State.resetWith p).lastScan = 0 ∧ (State.resetWith p).lastHiSh = 0 ∧
    (State.resetWith p).maxRetries = p.maxRetriesReset ∧ (State.resetWith p).minScanDelay = 0 ∧
    (State.resetWith p).scanCount = 0 ∧ (State.resetWith p).remaining = 0 ∧
    (State.resetWith p).numAddr = 0 ∧ (State.resetWith p).cmdLen0 = 0 ∧
    (State.resetWith p).cmdLen1 = 0 ∧ (State.resetWith p).txLen = 0 ∧
    (State.resetWith p).rxLen = 0 ∧ (State.resetWith p).respStatus = 0 ∧
    (State.resetWith p).resultLen = 0 ∧ (State.resetWith p).fresh = 0 ∧
    (State.resetWith p).recSlot = 0 ∧ (State.resetWith p).recNext = 0 ∧
    (State.resetWith p).lastFail = .none ∧
    (State.resetWith p).evtFifo = [] ∧ (State.resetWith p).evtCount = 0 ∧
    (State.resetWith p).logOvf = 0 ∧ (State.resetWith p).accessErr = false ∧
    (State.resetWith p).mem = [] ∧ (State.resetWith p).readReg .id = 0x58435601 ∧
    (∀ sl, ((State.resetWith p).slot sl).addr = 0 ∧ ((State.resetWith p).slot sl).sent = 0 ∧
      ((State.resetWith p).slot sl).recv = 0 ∧ ((State.resetWith p).slot sl).nakc = 0 ∧
      ((State.resetWith p).slot sl).retryWord = 0 ∧ ((State.resetWith p).slot sl).ts = 0 ∧
      ((State.resetWith p).slot sl).snLen = 0 ∧ ((State.resetWith p).slot sl).valLen = 0) ∧
    State.reset.readReg .param0 = 0x006401E5 ∧ State.reset.readReg .param1 = 0x00FA0064 ∧
    State.reset.readReg .param2 = 0x10000898 ∧ State.reset.readReg .param3 = 0x48004B00 ∧
    State.reset.readReg .param4 = 0x102000FF ∧ State.reset.readReg .param5 = 0x00000019

/-- The invariant of the block holds right after reset. -/
def Obligations.ResetMeetsInvariant : Prop := State.reset.Inv

/-- R341: a reset step in any mode leaves READY with nothing waited for, the transport closed, every
register at its reset value, and a later answer to the abandoned request changes nothing but the
schedule. -/
def Obligations.ResetFromAnyMode : Prop :=
  ∀ (s : State) (rest : List Move), s.inputs = ⟨.reset, false⟩ :: rest →
    ∃ t, step s = .next t ∧
      { t with epoch := 0, tpSeq := 0, inputs := [], hostData := 0 } =
        State.resetWith s.params ∧
      t.inputs = rest ∧
      ∀ o, s.tpReq = some o → o.tag < s.tpSeq → ∀ a, transportAnswer o.tag a t = .next t

/-! ### Encoding -/

/-- R103, R104: decoding a word gives a command exactly when the word is that command's encoding: no
bit of an encoding is dropped, and no other word decodes to the command. -/
def Obligations.DecodeIsInverseOfEncode : Prop :=
  ∀ (i : Instr) (w : Word), i.wellFormed = true → (decode w = .ok i ↔ w = encode i)

/-- R103: "the rows are disjoint, so at most one matches". -/
def Obligations.CommandRowsDisjoint : Prop :=
  rows.length = 15 ∧ rows.Pairwise fun r r' => ∀ w, ¬ (r.fits w = true ∧ r'.fits w = true)

/-- Words written out from the formats of R101 (95_test_vectors.md) decode to their commands. -/
def Obligations.SampleWordsDecode : Prop :=
  decode 0x00000101 = .ok (.encode .sn 1) ∧ decode 0x01000201 = .ok (.encode .meas 2) ∧
  decode 0x01000009 = .ok (.query .meas 0) ∧ decode 0x0001000A = .ok (.transactSn 1) ∧
  decode 0x0100000A = .ok (.transactMeas 0) ∧ decode 0x0000020D = .ok (.resultAck 2) ∧
  decode 0x0001E50E = .ok (.delay 485) ∧ decode 0x0000000B = .ok .scanStart

/-- R105: a word with a reserved OP, or with a listed OP and a nonzero must-be-zero bit of its format,
is rejected with IllegalCommand (with Halted once the block is halted, R310); only REJ and
IRQ_PEND.REJECT change. -/
def Obligations.ReservedWordsRejected : Prop :=
  ∀ (w : Word) (s : State),
    (w.extractLsb' 0 8 = (0x00 : Byte) ∨ 0x0F ≤ (w.extractLsb' 0 8).toNat ∨
      ((w.extractLsb' 0 8).toNat ∈ [0x02, 0x03, 0x04, 0x05, 0x06, 0x07, 0x08, 0x0B, 0x0C] ∧
        w &&& 0xFFFFFF00 ≠ 0) ∨
      ((w.extractLsb' 0 8).toNat = 0x01 ∧ w &&& 0xFEFF0000 ≠ 0) ∨
      ((w.extractLsb' 0 8).toNat ∈ [0x09, 0x0A] ∧ w &&& 0xFEE0FF00 ≠ 0) ∨
      ((w.extractLsb' 0 8).toNat = 0x0D ∧ w &&& 0xFFFF0000 ≠ 0)) →
    hostWrite 0x0004 .word w s = .next { s with
      rej := ⟨if s.eng = .halted then .halted else .illegalCommand, w.extractLsb' 0 8⟩
      irqPend := s.irqPend ||| 0b000100 }

/-- R100, R87: the step that takes a CMD write runs exactly the command its word decodes to, on the
state with that entry of the schedule taken; around it the step adds the engine's move (`settle`). -/
def Obligations.StepRunsDecodedCommand : Prop :=
  ∀ (s : State) (w : Word) (d : Bool) (rest : List Move) (i : Instr),
    s.inputs = ⟨.write 0x0004 .word w, d⟩ :: rest → decode w = .ok i →
    step s =
      match exec i { s with inputs := rest, defer := d } with
      | .next t => settle t
      | .fault f => .fault f
      | .refused r => .refused r

/-! ### The frame codec -/

/-- R136: from a response that decodes, flipping one bit of one byte gives ChecksumMismatch, with that
bit of the checksum changed if the byte is not the last and the checksum as it was if it is; flipping
the same bit position in two different bytes is not detected. -/
def Obligations.SingleBitFlipDetected : Prop :=
  ∀ (r : List Byte) (st : Byte) (p : List Byte) (c : Byte), decodeFrame r = .ok st p c →
    (∀ i b, i < r.length → b < 8 →
      decodeFrame (r.modify i fun x => x ^^^ (1#8 <<< b)) =
        .mismatch (if i + 1 < r.length then c ^^^ (1#8 <<< b) else c)) ∧
    (∀ i j b, i < r.length → j < r.length → i ≠ j → b < 8 →
      ∃ st' p' c', decodeFrame
        ((r.modify i fun x => x ^^^ (1#8 <<< b)).modify j fun x => x ^^^ (1#8 <<< b)) =
          .ok st' p' c')

/-- R137: a request frame is never a valid response: its check finds the address byte. -/
def Obligations.RequestFrameNeverValidResponse : Prop :=
  ∀ (cap : Nat) (p f : List Byte) (a : Byte), encodeFrame cap p a = some f →
    f = requestFrame a p ∧ decodeFrame f = .mismatch ((a ||| 0x80) ^^^ (xorBytes p ^^^ 0x03))

/-- R138: a response built from a status and a payload decodes to the status and the bytes of the
payload before its first ETX that `keep` keeps, with or without a closing ETX; so a payload of kept
bytes comes back whole. -/
def Obligations.ResponseRoundTrip : Prop :=
  (∀ (st : Byte) (p : List Byte),
    (∃ c, decodeFrame (st :: p ++ [0x03, xorBytes (st :: p) ^^^ 0x03]) =
      .ok st ((p.takeWhile fun b => b != 0x03).filter keepByte) c) ∧
    (∃ c, decodeFrame (st :: p ++ [xorBytes (st :: p)]) =
      .ok st ((p.takeWhile fun b => b != 0x03).filter keepByte) c)) ∧
  (∀ p : List Byte, (∀ b ∈ p, keepByte b = true) →
    (p.takeWhile fun b => b != 0x03).filter keepByte = p)

/-- R130: ENCODE. -/
def Obligations.EncodeCommandBuildsFrame : Prop :=
  ∀ (k : Kind) (a : Byte) (s : State), s.eng = .ready → s.defer = false →
    (s.params.cmdBufCap < (s.cmdLen k).toNat →
      exec (.encode k a) s =
        .next { s with rej := ⟨.configError, 0x01⟩, irqPend := s.irqPend ||| 0b000100 }) ∧
    ((s.cmdLen k).toNat ≤ s.params.cmdBufCap → s.params.txCap < (s.cmdLen k).toNat + 3 →
      exec (.encode k a) s = .next { s with
        eng := .ready, cont := .none, txValid := false, txLen := 0
        err := ⟨.encodingOverflow, .none, 0, .sn⟩
        irqPend := s.irqPend ||| 0b000011 }) ∧
    ((s.cmdLen k).toNat ≤ s.params.cmdBufCap → (s.cmdLen k).toNat + 3 ≤ s.params.txCap →
      ∃ t, exec (.encode k a) s = .next t ∧
        { t with mem := s.mem } = { s with
          eng := .ready, cont := .none, txValid := true
          txLen := BitVec.ofNat 16 ((s.cmdLen k).toNat + 3)
          chk := ⟨xorBytes (s.payload k) ^^^ 0x03, s.chk.rcvd⟩
          err := ⟨.none, .none, 0, .sn⟩
          irqPend := s.irqPend ||| 0b000001 } ∧
        s.StoresAt t 0x1000 (requestFrame a (s.payload k)))

/-- R132: VERIFY. -/
def Obligations.VerifyCommandChecks : Prop :=
  ∀ s : State, s.eng = .ready → s.defer = false →
    (s.params.rxCap < s.rxLen.toNat →
      exec .verify s =
        .next { s with rej := ⟨.configError, 0x02⟩, irqPend := s.irqPend ||| 0b000100 }) ∧
    (s.rxLen.toNat ≤ s.params.rxCap → s.rxLen = 0 →
      exec .verify s = .next { s with
        eng := .ready, cont := .none, err := ⟨.emptyResponse, .none, 0, .sn⟩
        irqPend := s.irqPend ||| 0b000011 }) ∧
    (s.rxLen.toNat ≤ s.params.rxCap → s.rxLen ≠ 0 →
      exec .verify s = .next { s with
        eng := .ready, cont := .none
        chk := ⟨xorBytes (s.bytesAt 0x2000 (s.rxLen.toNat - 1)),
          s.byteAt (0x2000 + (s.rxLen.toNat - 1))⟩
        err := ⟨if xorBytes (s.bytesAt 0x2000 (s.rxLen.toNat - 1)) =
            s.byteAt (0x2000 + (s.rxLen.toNat - 1)) then .none else .checksumMismatch,
          .none, 0, .sn⟩
        irqPend := s.irqPend ||| (if xorBytes (s.bytesAt 0x2000 (s.rxLen.toNat - 1)) =
            s.byteAt (0x2000 + (s.rxLen.toNat - 1)) then 0b000001 else 0b000011) })

/-- R133: DECODE. On Err RESP_STATUS, RESULT and RESULT_LEN are unchanged. -/
def Obligations.DecodeCommandUnpacks : Prop :=
  ∀ s : State, s.eng = .ready → s.defer = false →
    (s.params.rxCap < s.rxLen.toNat →
      exec .decode s =
        .next { s with rej := ⟨.configError, 0x03⟩, irqPend := s.irqPend ||| 0b000100 }) ∧
    (s.rxLen.toNat ≤ s.params.rxCap → s.rxLen = 0 →
      exec .decode s = .next { s with
        eng := .ready, cont := .none, err := ⟨.emptyResponse, .none, 0, .sn⟩
        irqPend := s.irqPend ||| 0b000011 }) ∧
    (∀ c, s.rxLen.toNat ≤ s.params.rxCap → decodeFrame s.rxBytes = .mismatch c →
      exec .decode s = .next { s with
        eng := .ready, cont := .none
        chk := ⟨c, s.byteAt (0x2000 + (s.rxLen.toNat - 1))⟩
        err := ⟨.checksumMismatch, .none, 0, .sn⟩
        irqPend := s.irqPend ||| 0b000011 }) ∧
    (∀ st p c, s.rxLen.toNat ≤ s.params.rxCap → decodeFrame s.rxBytes = .ok st p c →
      ∃ t, exec .decode s = .next t ∧
        { t with mem := s.mem } = { s with
          eng := .ready, cont := .none
          chk := ⟨c, s.byteAt (0x2000 + (s.rxLen.toNat - 1))⟩
          respStatus := st, resultLen := BitVec.ofNat 8 p.length
          err := ⟨.none, .none, 0, .sn⟩
          irqPend := s.irqPend ||| 0b000001 } ∧
        s.StoresAt t 0x2100 p)

/-! ### The device session -/

/-- R160: OPEN, its answer Ok and its answer Fail. -/
def Obligations.OpenCommandOpens : Prop :=
  (∀ s : State, s.eng = .ready → s.defer = false →
    (s.tpOpen = true →
      exec .openTp s =
        .next { s with rej := ⟨.transportStateError, 0x04⟩, irqPend := s.irqPend ||| 0b000100 }) ∧
    (s.tpOpen = false →
      exec .openTp s = .next { s with
        eng := .cmd, cont := .openAns
        tpReq := some ⟨s.tpSeq, .openLine s.params.baud s.params.dataBits s.params.parity
          s.params.stopBits⟩
        tpSeq := s.tpSeq + 1
        tpLog := .openLine s.params.baud s.params.dataBits s.params.parity s.params.stopBits ::
          s.tpLog })) ∧
  (∀ (s : State) tag b d p st rest,
    (s.Calls .openAns tag (.openLine b d p st) (answerMove tag .ok) rest →
      step s = .next { s with
        inputs := rest, defer := false, tpReq := none, eng := .ready, cont := .none
        tpOpen := true, err := ⟨.none, .none, 0, .sn⟩, irqPend := s.irqPend ||| 0b000001 }) ∧
    (s.Calls .openAns tag (.openLine b d p st) (answerMove tag .fail) rest →
      step s = .next { s with
        inputs := rest, defer := false, tpReq := none, eng := .ready, cont := .none
        err := ⟨.transportOpenFailure, .none, 0, .sn⟩, irqPend := s.irqPend ||| 0b000011 }))

/-- R161: CLOSE, open or closed. -/
def Obligations.CloseCommandCloses : Prop :=
  ∀ s : State, s.eng = .ready → s.defer = false →
    (s.tpOpen = true →
      exec .closeTp s = .next { s with
        eng := .ready, cont := .none, tpOpen := false, tpLog := .closeLine :: s.tpLog
        err := ⟨.none, .none, 0, .sn⟩, irqPend := s.irqPend ||| 0b000001 }) ∧
    (s.tpOpen = false →
      exec .closeTp s = .next { s with
        eng := .ready, cont := .none
        err := ⟨.none, .none, 0, .sn⟩, irqPend := s.irqPend ||| 0b000001 })

/-- R162: SEND, its answer Ok and its answer Fail; no slot counter and no TX_VALID changes. -/
def Obligations.SendCommandSends : Prop :=
  (∀ s : State, s.eng = .ready → s.defer = false →
    (s.tpOpen = false →
      exec .send s =
        .next { s with rej := ⟨.transportStateError, 0x06⟩, irqPend := s.irqPend ||| 0b000100 }) ∧
    (s.tpOpen = true → s.txValid = false →
      exec .send s =
        .next { s with rej := ⟨.noFrame, 0x06⟩, irqPend := s.irqPend ||| 0b000100 }) ∧
    (s.tpOpen = true → s.txValid = true →
      exec .send s = .next { s with
        eng := .cmd, cont := .sendAns
        tpReq := some ⟨s.tpSeq, .sendBytes (s.bytesAt 0x1000 s.txLen.toNat)⟩
        tpSeq := s.tpSeq + 1
        tpLog := .sendBytes (s.bytesAt 0x1000 s.txLen.toNat) :: s.tpLog })) ∧
  (∀ (s : State) tag f rest,
    (s.Calls .sendAns tag (.sendBytes f) (answerMove tag .ok) rest →
      step s = .next { s with
        inputs := rest, defer := false, tpReq := none, eng := .ready, cont := .none
        err := ⟨.none, .none, 0, .sn⟩, irqPend := s.irqPend ||| 0b000001 }) ∧
    (s.Calls .sendAns tag (.sendBytes f) (answerMove tag .fail) rest →
      step s = .next { s with
        inputs := rest, defer := false, tpReq := none, eng := .ready, cont := .none
        err := ⟨.sendFailure, .none, 0, .sn⟩, irqPend := s.irqPend ||| 0b000011 }))

/-- R163, R165, R166: RECV; bytes in time, Timeout, and the tick that reaches RX_DEADLINE; with
RX_TIMEOUT_MS = 0 it times out at once (that the request is then made and abandoned in the same step
is the model's reading, log entry 7). -/
def Obligations.RecvCommandReceives : Prop :=
  (∀ s : State, s.eng = .ready → s.defer = false →
    (s.tpOpen = false →
      exec .recv s =
        .next { s with rej := ⟨.transportStateError, 0x07⟩, irqPend := s.irqPend ||| 0b000100 }) ∧
    (s.tpOpen = true → s.params.rxTimeoutMs ≠ 0 →
      exec .recv s = .next { s with
        eng := .cmd, cont := .recvAns
        tpReq := some ⟨s.tpSeq, .recvBytes s.params.rxCap s.params.rxTimeoutMs⟩
        tpSeq := s.tpSeq + 1
        tpLog := .recvBytes s.params.rxCap s.params.rxTimeoutMs :: s.tpLog
        rxDeadline := some (s.now + s.params.rxTimeoutMs.setWidth 64) }) ∧
    (s.tpOpen = true → s.params.rxTimeoutMs = 0 →
      exec .recv s = .next { s with
        eng := .ready, cont := .none, rxLen := 0, tpSeq := s.tpSeq + 1
        tpLog := .recvBytes s.params.rxCap 0 :: s.tpLog
        err := ⟨.timeoutError, .none, 0, .sn⟩, irqPend := s.irqPend ||| 0b000011 })) ∧
  (∀ (s : State) tag d rest,
    (∀ b : List Byte, s.Receives .recvAns tag d (answerMove tag (.bytes b)) rest → s.now < d →
      b.length ≤ s.params.rxCap →
      ∃ t, step s = .next t ∧
        { t with mem := s.mem } = { s with
          inputs := rest, defer := false, tpReq := none, rxDeadline := none
          eng := .ready, cont := .none, rxLen := BitVec.ofNat 9 b.length
          err := ⟨.none, .none, 0, .sn⟩, irqPend := s.irqPend ||| 0b000001 } ∧
        s.StoresAt t 0x2000 b) ∧
    (s.Receives .recvAns tag d (answerMove tag .timeout) rest → s.now < d →
      step s = .next { s with
        inputs := rest, defer := false, tpReq := none, rxDeadline := none
        eng := .ready, cont := .none, rxLen := 0
        err := ⟨.timeoutError, .none, 0, .sn⟩, irqPend := s.irqPend ||| 0b000011 }) ∧
    (s.Receives .recvAns tag d tickMove rest → d = s.now + 1 →
      step s = .next { s with
        inputs := rest, defer := false, now := s.now + 1, tpReq := none, rxDeadline := none
        eng := .ready, cont := .none, rxLen := 0
        err := ⟨.timeoutError, .none, 0, .sn⟩, irqPend := s.irqPend ||| 0b000011 }))

/-- R167: FLUSH discards what it receives, bytes, Timeout or deadline: ERR is 0, and no buffer, RX_LEN
or counter changes. (With RX_TIMEOUT_MS = 0, log entry 7.) -/
def Obligations.FlushCommandDiscards : Prop :=
  (∀ s : State, s.eng = .ready → s.defer = false →
    (s.tpOpen = false →
      exec .flush s =
        .next { s with rej := ⟨.transportStateError, 0x08⟩, irqPend := s.irqPend ||| 0b000100 }) ∧
    (s.tpOpen = true → s.params.rxTimeoutMs ≠ 0 →
      exec .flush s = .next { s with
        eng := .cmd, cont := .flushAns
        tpReq := some ⟨s.tpSeq, .recvBytes s.params.rxCap s.params.rxTimeoutMs⟩
        tpSeq := s.tpSeq + 1
        tpLog := .recvBytes s.params.rxCap s.params.rxTimeoutMs :: s.tpLog
        rxDeadline := some (s.now + s.params.rxTimeoutMs.setWidth 64) }) ∧
    (s.tpOpen = true → s.params.rxTimeoutMs = 0 →
      exec .flush s = .next { s with
        eng := .ready, cont := .none, tpSeq := s.tpSeq + 1
        tpLog := .recvBytes s.params.rxCap 0 :: s.tpLog
        err := ⟨.none, .none, 0, .sn⟩, irqPend := s.irqPend ||| 0b000001 })) ∧
  (∀ (s : State) tag d rest,
    (∀ a : TpAnswer, s.Receives .flushAns tag d (answerMove tag a) rest → s.now < d →
      (a = .timeout ∨ ∃ b, a = .bytes b ∧ b.length ≤ s.params.rxCap) →
      step s = .next { s with
        inputs := rest, defer := false, tpReq := none, rxDeadline := none
        eng := .ready, cont := .none
        err := ⟨.none, .none, 0, .sn⟩, irqPend := s.irqPend ||| 0b000001 }) ∧
    (s.Receives .flushAns tag d tickMove rest → d = s.now + 1 →
      step s = .next { s with
        inputs := rest, defer := false, now := s.now + 1, tpReq := none, rxDeadline := none
        eng := .ready, cont := .none
        err := ⟨.none, .none, 0, .sn⟩, irqPend := s.irqPend ||| 0b000001 }))

/-- R168, R169: QUERY's first step: the frame for slot `sl` in TXBUF and its send requested, or
EncodingOverflow. -/
def Obligations.QueryCommandSends : Prop :=
  ∀ (k : Kind) (sl : SlotId) (s : State), s.eng = .ready → s.defer = false → s.tpOpen = true →
    s.numAddr.toNat ≤ s.params.maxSlots → sl.toNat < s.numAddr.toNat →
    (s.cmdLen k).toNat ≤ s.params.cmdBufCap →
    (s.params.txCap < (s.cmdLen k).toNat + 3 →
      exec (.query k sl) s = .next { s with
        eng := .ready, cont := .none, curSlot := sl, txValid := false, txLen := 0
        err := ⟨.encodingOverflow, .none, sl, k⟩, irqPend := s.irqPend ||| 0b000011 }) ∧
    ((s.cmdLen k).toNat + 3 ≤ s.params.txCap →
      ∃ t, exec (.query k sl) s = .next t ∧
        { t with mem := s.mem } = { s with
          eng := .cmd, cont := .querySend (.query k sl), curSlot := sl, txValid := true
          txLen := BitVec.ofNat 16 ((s.cmdLen k).toNat + 3)
          chk := ⟨xorBytes (s.payload k) ^^^ 0x03, s.chk.rcvd⟩
          tpReq := some ⟨s.tpSeq, .sendBytes (requestFrame (s.slot sl).addr (s.payload k))⟩
          tpSeq := s.tpSeq + 1
          tpLog := .sendBytes (requestFrame (s.slot sl).addr (s.payload k)) :: s.tpLog } ∧
        s.StoresAt t 0x1000 (requestFrame (s.slot sl).addr (s.payload k)))

/-- R169: within any Query, a send answered Ok counts SENT of the queried slot (and nothing of another
slot) and starts the settle interval at that step; the tick that ends it starts the receive. -/
def Obligations.QuerySettlesThenReceives : Prop :=
  ∀ (s : State) (q : Task) tag f rest,
    (s.Calls (.querySend q) tag (.sendBytes f) (answerMove tag .ok) rest → s.params.settleMs ≠ 0 →
      ∃ t, step s = .next t ∧
        { t with slots := s.slots } = { s with
          inputs := rest, defer := false, tpReq := none, cont := .querySettle q
          sleepUntil := some (s.now + s.params.settleMs.setWidth 64) } ∧
        t.slot q.slot = { s.slot q.slot with sent := (s.slot q.slot).sent + 1 } ∧
        ∀ sl, sl ≠ q.slot → t.slot sl = s.slot sl) ∧
    (s.Wakes (.querySettle q) rest → s.params.rxTimeoutMs ≠ 0 →
      step s = .next { s with
        inputs := rest, defer := false, now := s.now + 1, sleepUntil := none
        cont := .queryRecv q
        tpReq := some ⟨s.tpSeq, .recvBytes s.params.rxCap s.params.rxTimeoutMs⟩
        tpSeq := s.tpSeq + 1
        tpLog := .recvBytes s.params.rxCap s.params.rxTimeoutMs :: s.tpLog
        rxDeadline := some (s.now + 1 + s.params.rxTimeoutMs.setWidth 64) })

/-- R168, R169: how QUERY ends: a failed send (SENT unchanged), a timeout (the deadline's tick, or the
transport's Timeout, R165), an empty or corrupt answer,
or an unpacked answer of any status (NAK among them), which counts RECV. NAKC never changes. -/
def Obligations.QueryCommandEnds : Prop :=
  ∀ (s : State) (k : Kind) (sl : SlotId) tag rest,
    (∀ f, s.Calls (.querySend (.query k sl)) tag (.sendBytes f) (answerMove tag .fail) rest →
      step s = .next { s with
        inputs := rest, defer := false, tpReq := none, eng := .ready, cont := .none
        err := ⟨.sendFailure, .none, sl, k⟩, irqPend := s.irqPend ||| 0b000011 }) ∧
    (∀ d, s.Receives (.queryRecv (.query k sl)) tag d tickMove rest → d = s.now + 1 →
      step s = .next { s with
        inputs := rest, defer := false, now := s.now + 1, tpReq := none, rxDeadline := none
        eng := .ready, cont := .none, rxLen := 0
        err := ⟨.timeoutError, .none, sl, k⟩, irqPend := s.irqPend ||| 0b000011 }) ∧
    (∀ d, s.Receives (.queryRecv (.query k sl)) tag d (answerMove tag .timeout) rest → s.now < d →
      step s = .next { s with
        inputs := rest, defer := false, tpReq := none, rxDeadline := none
        eng := .ready, cont := .none, rxLen := 0
        err := ⟨.timeoutError, .none, sl, k⟩, irqPend := s.irqPend ||| 0b000011 }) ∧
    (∀ d, s.Receives (.queryRecv (.query k sl)) tag d (answerMove tag (.bytes [])) rest → s.now < d →
      step s = .next { s with
        inputs := rest, defer := false, tpReq := none, rxDeadline := none
        eng := .ready, cont := .none, rxLen := 0
        err := ⟨.emptyResponse, .none, sl, k⟩, irqPend := s.irqPend ||| 0b000011 }) ∧
    (∀ d b c, s.Receives (.queryRecv (.query k sl)) tag d (answerMove tag (.bytes b)) rest →
      s.now < d → b.length ≤ s.params.rxCap → decodeFrame b = .mismatch c →
      ∃ t, step s = .next t ∧
        { t with mem := s.mem } = { s with
          inputs := rest, defer := false, tpReq := none, rxDeadline := none
          eng := .ready, cont := .none, rxLen := BitVec.ofNat 9 b.length
          chk := ⟨c, b.getLastD 0⟩
          err := ⟨.checksumMismatch, .none, sl, k⟩, irqPend := s.irqPend ||| 0b000011 } ∧
        s.StoresAt t 0x2000 b) ∧
    (∀ d b st p c, s.Receives (.queryRecv (.query k sl)) tag d (answerMove tag (.bytes b)) rest →
      s.now < d → b.length ≤ s.params.rxCap → s.params.rxCap ≤ 256 → decodeFrame b = .ok st p c →
      ∃ t, step s = .next t ∧
        { t with mem := s.mem, slots := s.slots } = { s with
          inputs := rest, defer := false, tpReq := none, rxDeadline := none
          eng := .ready, cont := .none, rxLen := BitVec.ofNat 9 b.length
          chk := ⟨c, b.getLastD 0⟩, respStatus := st, resultLen := BitVec.ofNat 8 p.length
          err := ⟨.none, .none, sl, k⟩, irqPend := s.irqPend ||| 0b000001 } ∧
        t.slot sl = { s.slot sl with recv := (s.slot sl).recv + 1 } ∧
        (∀ sl', sl' ≠ sl → t.slot sl' = s.slot sl') ∧
        t.bytesAt 0x2000 b.length = b ∧ t.bytesAt 0x2100 p.length = p ∧
        ∀ a, (a < 0x2000 ∨ 0x2000 + b.length ≤ a) → (a < 0x2100 ∨ 0x2100 + p.length ≤ a) →
          t.byteAt a = s.byteAt a)

/-! ### The retry controller -/

/-- R200, R201, R202: TRANSACT.SN and TRANSACT.MEAS from acceptance: the first attempt's frame sent, or
FAILED after one attempt with EncodingOverflow, logged (or counted in LOG_OVF if the FIFO is full) and
kept in the slot. -/
def Obligations.TransactCommandStarts : Prop :=
  ∀ (k : Kind) (sl : SlotId) (s : State), s.eng = .ready → s.defer = false → s.tpOpen = true →
    s.numAddr.toNat ≤ s.params.maxSlots → sl.toNat < s.numAddr.toNat →
    (s.cmdLen k).toNat ≤ s.params.cmdBufCap → s.maxRetries ≠ 0 →
    ((s.cmdLen k).toNat + 3 ≤ s.params.txCap →
      ∃ t, exec (transactOf k sl) s = .next t ∧
        { t with mem := s.mem } = { s with
          eng := .cmd, cont := .querySend (.transact k sl .host), curSlot := sl
          attempts := 1, rstate := .attempting, lastFail := .none, txValid := true
          txLen := BitVec.ofNat 16 ((s.cmdLen k).toNat + 3)
          chk := ⟨xorBytes (s.payload k) ^^^ 0x03, s.chk.rcvd⟩
          tpReq := some ⟨s.tpSeq, .sendBytes (requestFrame (s.slot sl).addr (s.payload k))⟩
          tpSeq := s.tpSeq + 1
          tpLog := .sendBytes (requestFrame (s.slot sl).addr (s.payload k)) :: s.tpLog } ∧
        s.StoresAt t 0x1000 (requestFrame (s.slot sl).addr (s.payload k))) ∧
    (s.params.txCap < (s.cmdLen k).toNat + 3 →
      ∃ t, exec (transactOf k sl) s = .next t ∧
        { t with slots := s.slots } = { s with
          eng := .ready, cont := .none, curSlot := sl, attempts := 1, rstate := .failed
          lastFail := .none, txValid := false, txLen := 0
          evtFifo := s.fifoAfter [eventWord .encodingOverflow 0 sl k]
          logOvf := s.ovfAfter [eventWord .encodingOverflow 0 sl k]
          err := ⟨.encodingOverflow, .none, sl, k⟩, irqPend := s.irqPend ||| 0b100011 } ∧
        t.slot sl = (match k with
          | .sn => { s.slot sl with snAtt := 1, snRState := .failed }
          | .meas => { s.slot sl with measAtt := 1, measRState := .failed }) ∧
        ∀ sl', sl' ≠ sl → t.slot sl' = s.slot sl')

/-- R202, R213, R214, R200, R201: an attempt of a host-issued TRANSACT whose answer's status is a
success for its kind ends it at this step: the reading stored, ERR = 0, SUCCEEDED. -/
def Obligations.TransactSuccessStoresReading : Prop :=
  ∀ (s : State) (k : Kind) (sl : SlotId) tag d b st p c rest,
    s.Receives (.queryRecv (.transact k sl .host)) tag d (answerMove tag (.bytes b)) rest →
    s.now < d → b.length ≤ s.params.rxCap → s.params.wf = true →
    decodeFrame b = .ok st p c →
    (match k with
      | .sn => st ≠ 0x15 ∧ (s.params.snStatusSigned = true → st.toNat < 0x80)
      | .meas => st = 0x06) →
    ∃ t, step s = .next t ∧
      { t with mem := s.mem, slots := s.slots, fresh := s.fresh } = { s with
        inputs := rest, defer := false, tpReq := none, rxDeadline := none
        eng := .ready, cont := .none, rxLen := BitVec.ofNat 9 b.length
        chk := ⟨c, b.getLastD 0⟩, respStatus := st, resultLen := BitVec.ofNat 8 p.length
        rstate := .succeeded
        err := ⟨.none, .none, sl, k⟩, irqPend := s.irqPend ||| 0b000001 } ∧
      (match k with
        | .sn =>
          t.slot sl = { s.slot sl with
            recv := (s.slot sl).recv + 1, snLen := BitVec.ofNat 8 p.length
            snAtt := s.attempts, snRState := .succeeded } ∧
          t.fresh = s.fresh ∧ t.bytesAt (0x8000 + 256 * sl.toNat) p.length = p
        | .meas =>
          t.slot sl = { s.slot sl with
            recv := (s.slot sl).recv + 1, valLen := BitVec.ofNat 8 p.length, ts := s.now
            measAtt := s.attempts, measRState := .succeeded } ∧
          (∀ j, t.fresh.getLsbD j = (s.fresh.getLsbD j || decide (j = sl.toNat))) ∧
          t.bytesAt (0xA000 + 256 * sl.toNat) p.length = p) ∧
      (∀ sl', sl' ≠ sl → t.slot sl' = s.slot sl') ∧
      t.bytesAt 0x2000 b.length = b ∧ t.bytesAt 0x2100 p.length = p ∧
      ∀ a, (a < 0x2000 ∨ 0x2000 + b.length ≤ a) → (a < 0x2100 ∨ 0x2100 + p.length ≤ a) →
        (∀ base, base = (match k with | .sn => 0x8000 | .meas => 0xA000) + 256 * sl.toNat →
          a < base ∨ base + p.length ≤ a) → t.byteAt a = s.byteAt a

/-- R202, R210, R211, R212, R307: an attempt that fails with attempts left is followed at once, in the same
step, by the next attempt's frame. A NAK counts NAKC, shows NAKED and logs nothing; any other failure
(send, timeout, empty, checksum, unexpected status) shows ATTEMPTING and is logged with its code. `last`
is the failure's code, the readings stay (R215), and the frame is the slot's request frame in TXBUF. -/
def Obligations.FailedAttemptRetries : Prop :=
  ∀ (s : State) (k : Kind) (sl : SlotId) (o : Owner) (rest : List Move) (x : Failed),
    s.AttemptFails k sl o rest x → s.params.wf = true →
    s.attempts.toNat < s.maxRetries.toNat → (s.cmdLen k).toNat + 3 ≤ s.params.txCap →
    ∃ t, step s = .next t ∧
      { t with mem := s.mem, slots := s.slots } = { s with
        inputs := rest, defer := false, now := x.now, rxDeadline := none
        cont := .querySend (.transact k sl o), curSlot := sl, attempts := s.attempts + 1
        rstate := if x.code = .negativeAcknowledge then .naked else .attempting
        lastFail := x.code, rxLen := x.rxLen, respStatus := x.respStatus, resultLen := x.resultLen
        txValid := true, txLen := BitVec.ofNat 16 ((s.cmdLen k).toNat + 3)
        chk := ⟨xorBytes (s.payload k) ^^^ 0x03, x.chk.rcvd⟩
        tpReq := some ⟨s.tpSeq, .sendBytes (requestFrame (s.slot sl).addr (s.payload k))⟩
        tpSeq := s.tpSeq + 1
        tpLog := .sendBytes (requestFrame (s.slot sl).addr (s.payload k)) :: s.tpLog
        evtFifo := s.fifoAfter (x.events k sl), logOvf := s.ovfAfter (x.events k sl)
        irqPend := s.irqPend |||
          (if x.code = .negativeAcknowledge then 0b000000 else 0b100000) } ∧
      t.slot sl = x.slotAfter (s.slot sl) ∧ (∀ sl', sl' ≠ sl → t.slot sl' = s.slot sl') ∧
      t.bytesAt 0x1000 ((s.cmdLen k).toNat + 3) = requestFrame (s.slot sl).addr (s.payload k) ∧
      t.bytesAt 0x2000 x.rx.length = x.rx ∧ t.bytesAt 0x2100 x.result.length = x.result ∧
      ∀ a, (a < 0x1000 ∨ 0x1000 + ((s.cmdLen k).toNat + 3) ≤ a) →
        (a < 0x2000 ∨ 0x2000 + x.rx.length ≤ a) → (a < 0x2100 ∨ 0x2100 + x.result.length ≤ a) →
        t.byteAt a = s.byteAt a

/-- R202, R210, R212, R216, R307: an attempt of a host-issued TRANSACT that fails with no attempt left, in
whichever way, ends it EXHAUSTED: the failure's own event (none for a NAK) and then RetriesExhausted are
logged, the last failure's code is ERR.LAST and the event's sub-code, RETRY is kept, and (R215) the
slot's reading stays. -/
def Obligations.LastFailureExhausts : Prop :=
  ∀ (s : State) (k : Kind) (sl : SlotId) (rest : List Move) (x : Failed),
    s.AttemptFails k sl .host rest x → s.params.wf = true →
    s.maxRetries.toNat ≤ s.attempts.toNat →
    ∃ t, step s = .next t ∧
      { t with mem := s.mem, slots := s.slots } = { s with
        inputs := rest, defer := false, now := x.now, tpReq := none, rxDeadline := none
        eng := .ready, cont := .none, rstate := .exhausted, lastFail := x.code
        rxLen := x.rxLen, chk := x.chk, respStatus := x.respStatus, resultLen := x.resultLen
        err := ⟨.retriesExhausted, x.code, sl, k⟩
        evtFifo := s.fifoAfter (x.events k sl ++ [eventWord .retriesExhausted x.code.byte sl k])
        logOvf := s.ovfAfter (x.events k sl ++ [eventWord .retriesExhausted x.code.byte sl k])
        irqPend := s.irqPend ||| 0b100011 } ∧
      t.slot sl = (x.slotAfter (s.slot sl)).withRetry k s.attempts .exhausted ∧
      (∀ sl', sl' ≠ sl → t.slot sl' = s.slot sl') ∧
      t.readingOf sl = s.readingOf sl ∧ s.StoresAnswer t x.rx x.result

/-- R215: a Transact that ends FAILED or EXHAUSTED writes no reading: SN_LEN, VAL_LEN, TS and the FRESH
bit of every slot, and every byte of SERIAL and VALUE, are as the attempt's outcome found them. -/
def Obligations.FailedTransactKeepsReadings : Prop :=
  ∀ (s t : State) (k : Kind) (sl : SlotId) (o : Owner) (r : QResult) (x : TResult),
    transactOutcome k sl o r s = .ended t x → x ≠ .ok →
    (∀ sl', t.readingOf sl' = s.readingOf sl') ∧ ∀ a, 0x8000 ≤ a → t.byteAt a = s.byteAt a

/-- R217: "Given N - 1 NAK answers followed by one ACK answer with N <= MAX_RETRIES on a MEAS Transact,
it succeeds at attempt N and NAKC grows by exactly N - 1". Here n = N - 1, the run starts in the
first attempt's receive, sends are answered Ok at once, and answers come at once. -/
def Obligations.MeasurementSucceedsAfterNaks : Prop :=
  ∀ (n : Nat) (s : State) (sl : SlotId) (tag : Nat) (d : Time) (nak ack q p : List Byte) (c c' : Byte)
    (rest : List Move),
    s.eng = .cmd → s.cont = .queryRecv (.transact .meas sl .host) → s.resume = none →
    s.sleepUntil = none → (∃ cap ms, s.tpReq = some ⟨tag, .recvBytes cap ms⟩) →
    s.tpSeq = tag + 1 → s.rxDeadline = some d → s.now < d →
    s.attempts = 1 → n + 1 ≤ s.maxRetries.toNat → (s.cmdLen1).toNat + 3 ≤ s.params.txCap →
    s.params.settleMs ≠ 0 → s.params.rxTimeoutMs ≠ 0 →
    s.now.toNat + (n + 1) * s.params.settleMs.toNat + s.params.rxTimeoutMs.toNat < 2 ^ 64 →
    nak.length ≤ s.params.rxCap → ack.length ≤ s.params.rxCap →
    decodeFrame nak = .ok 0x15 q c → decodeFrame ack = .ok 0x06 p c' →
    s.inputs = nakRounds n tag nak s.params.settleMs.toNat ++
      answerMove (tag + 2 * n) (.bytes ack) :: rest →
    ∃ t, stepN (n * (2 + s.params.settleMs.toNat) + 1) s = .next t ∧
      t.eng = .ready ∧ t.rstate = .succeeded ∧ t.attempts = BitVec.ofNat 8 (n + 1) ∧
      t.err = ⟨.none, .none, sl, .meas⟩ ∧ t.inputs = rest ∧
      (t.slot sl).nakc = (s.slot sl).nakc + BitVec.ofNat 32 n ∧
      (t.slot sl).sent = (s.slot sl).sent + BitVec.ofNat 32 n ∧
      (t.slot sl).recv = (s.slot sl).recv + BitVec.ofNat 32 (n + 1) ∧
      t.now.toNat = s.now.toNat + n * s.params.settleMs.toNat ∧ (t.slot sl).ts = t.now ∧
      t.bytesAt (0xA000 + 256 * sl.toNat) p.length = p

/-! ### The scan scheduler -/

/-- R230, R232, R234: SCAN_START accepted: the budget latched, ERR cleared, DONE raised, BUSY left 0,
and the scheduler in WAITING in the same step (log entry 10), its open requested or the minimum delay
awaited. And its rejections (R230, R310), in the order listed: configuration errors before the
transport's state. -/
def Obligations.ScanStartStartsOrRejects : Prop :=
  (∀ s : State, s.eng = .ready → s.defer = false → s.tpOpen = false → s.maxRetries ≠ 0 →
    1 ≤ s.numAddr.toNat → s.numAddr.toNat ≤ s.params.maxSlots →
    (∀ x y : SlotId, x.toNat < s.numAddr.toNat → y.toNat < s.numAddr.toNat → x ≠ y →
      (s.slot x).addr &&& 0x7F ≠ (s.slot y).addr &&& 0x7F) →
    s.cmdLen0.toNat ≤ s.params.cmdBufCap → s.cmdLen1.toNat ≤ s.params.cmdBufCap →
    s.params.maxSlots ≤ 32 →
    ((s.lastValid = false ∨ s.minScanDelay = 0) →
      exec .scanStart s = .next { s with
        eng := .sched, cont := .schedOpen, sstate := .waiting, remaining := s.scanCount
        unbounded := decide (s.scanCount = 0), err := ⟨.none, .none, 0, .sn⟩
        irqPend := s.irqPend ||| 0b000001
        tpReq := some ⟨s.tpSeq, .openLine s.params.baud s.params.dataBits s.params.parity
          s.params.stopBits⟩
        tpSeq := s.tpSeq + 1
        tpLog := .openLine s.params.baud s.params.dataBits s.params.parity s.params.stopBits ::
          s.tpLog }) ∧
    (s.lastValid = true → s.lastScan.toNat ≤ s.now.toNat →
      s.now.toNat - s.lastScan.toNat < s.minScanDelay.toNat * 1000 → s.params.pollMs ≠ 0 →
      exec .scanStart s = .next { s with
        eng := .sched, cont := .schedPoll, sstate := .waiting, remaining := s.scanCount
        unbounded := decide (s.scanCount = 0), err := ⟨.none, .none, 0, .sn⟩
        irqPend := s.irqPend ||| 0b000001
        sleepUntil := some (s.now + s.params.pollMs.setWidth 64) })) ∧
  (∀ s : State, s.eng = .ready → s.params.maxSlots ≤ 32 →
    ((s.numAddr = 0 ∨ s.params.maxSlots < s.numAddr.toNat ∨
      (s.numAddr.toNat ≤ s.params.maxSlots ∧ ∃ x y : SlotId, x.toNat < s.numAddr.toNat ∧
        y.toNat < s.numAddr.toNat ∧ x ≠ y ∧
        (s.slot x).addr &&& 0x7F = (s.slot y).addr &&& 0x7F) ∨
      s.params.cmdBufCap < s.cmdLen0.toNat ∨ s.params.cmdBufCap < s.cmdLen1.toNat ∨
      s.maxRetries = 0) →
      exec .scanStart s =
        .next { s with rej := ⟨.configError, 0x0B⟩, irqPend := s.irqPend ||| 0b000100 }) ∧
    (s.tpOpen = true → s.numAddr ≠ 0 → s.numAddr.toNat ≤ s.params.maxSlots →
      (∀ x y : SlotId, x.toNat < s.numAddr.toNat → y.toNat < s.numAddr.toNat → x ≠ y →
        (s.slot x).addr &&& 0x7F ≠ (s.slot y).addr &&& 0x7F) →
      s.cmdLen0.toNat ≤ s.params.cmdBufCap → s.cmdLen1.toNat ≤ s.params.cmdBufCap →
      s.maxRetries ≠ 0 →
      exec .scanStart s =
        .next { s with rej := ⟨.transportStateError, 0x0B⟩, irqPend := s.irqPend ||| 0b000100 }))

/-- R231, R238, R213, R239, R214: the scan's own path through a slot. A serial-number Transact of the
scheduler that succeeds stores the serial number and starts the slot's measurement in the same step (or,
where that frame is too long, logs its failure and starts the pacing); a measurement that succeeds
stores the value, TS = NOW and the FRESH bit, and starts the pacing delay. ERR is not written. -/
def Obligations.ScanSuccessGoesOn : Prop :=
  ∀ (s : State) (sl : SlotId) tag d b st p c rest,
    s.now < d → b.length ≤ s.params.rxCap → s.params.wf = true → decodeFrame b = .ok st p c →
    (s.Receives (.queryRecv (.transact .sn sl .scan)) tag d (answerMove tag (.bytes b)) rest →
      st ≠ 0x15 → (s.params.snStatusSigned = true → st.toNat < 0x80) → s.maxRetries ≠ 0 →
      (s.cmdLen1.toNat + 3 ≤ s.params.txCap →
        ∃ t, step s = .next t ∧
          { t with mem := s.mem, slots := s.slots } = { s with
            inputs := rest, defer := false, rxDeadline := none
            cont := .querySend (.transact .meas sl .scan), curSlot := sl, attempts := 1
            rstate := .attempting, lastFail := .none, rxLen := BitVec.ofNat 9 b.length
            respStatus := st, resultLen := BitVec.ofNat 8 p.length
            txValid := true, txLen := BitVec.ofNat 16 (s.cmdLen1.toNat + 3)
            chk := ⟨xorBytes (s.payload .meas) ^^^ 0x03, b.getLastD 0⟩
            tpReq := some ⟨s.tpSeq, .sendBytes (requestFrame (s.slot sl).addr (s.payload .meas))⟩
            tpSeq := s.tpSeq + 1
            tpLog := .sendBytes (requestFrame (s.slot sl).addr (s.payload .meas)) :: s.tpLog } ∧
          t.slot sl = { s.slot sl with
            recv := (s.slot sl).recv + 1, snLen := BitVec.ofNat 8 p.length
            snAtt := s.attempts, snRState := .succeeded } ∧
          (∀ sl', sl' ≠ sl → t.slot sl' = s.slot sl') ∧
          t.bytesAt 0x1000 (s.cmdLen1.toNat + 3) =
            requestFrame (s.slot sl).addr (s.payload .meas) ∧
          t.bytesAt 0x2000 b.length = b ∧ t.bytesAt 0x2100 p.length = p ∧
          t.bytesAt (0x8000 + 256 * sl.toNat) p.length = p ∧
          ∀ a, (a < 0x1000 ∨ 0x1000 + (s.cmdLen1.toNat + 3) ≤ a) →
            (a < 0x2000 ∨ 0x2000 + b.length ≤ a) → (a < 0x2100 ∨ 0x2100 + p.length ≤ a) →
            (a < 0x8000 + 256 * sl.toNat ∨ 0x8000 + 256 * sl.toNat + p.length ≤ a) →
            t.byteAt a = s.byteAt a) ∧
      (s.params.txCap < s.cmdLen1.toNat + 3 → s.params.paceMs ≠ 0 →
        ∃ t, step s = .next t ∧
          { t with mem := s.mem, slots := s.slots } = { s with
            inputs := rest, defer := false, tpReq := none, rxDeadline := none
            cont := .schedPace, sleepUntil := some (s.now + s.params.paceMs.setWidth 64)
            curSlot := sl, attempts := 1, rstate := .failed, lastFail := .none
            rxLen := BitVec.ofNat 9 b.length, chk := ⟨c, b.getLastD 0⟩
            respStatus := st, resultLen := BitVec.ofNat 8 p.length, txValid := false, txLen := 0
            evtFifo := s.fifoAfter [eventWord .encodingOverflow 0 sl .meas]
            logOvf := s.ovfAfter [eventWord .encodingOverflow 0 sl .meas]
            irqPend := s.irqPend ||| 0b100000 } ∧
          t.slot sl = { s.slot sl with
            recv := (s.slot sl).recv + 1, snLen := BitVec.ofNat 8 p.length
            snAtt := s.attempts, snRState := .succeeded, measAtt := 1, measRState := .failed } ∧
          (∀ sl', sl' ≠ sl → t.slot sl' = s.slot sl') ∧
          t.bytesAt 0x2000 b.length = b ∧ t.bytesAt 0x2100 p.length = p ∧
          t.bytesAt (0x8000 + 256 * sl.toNat) p.length = p ∧
          ∀ a, (a < 0x2000 ∨ 0x2000 + b.length ≤ a) → (a < 0x2100 ∨ 0x2100 + p.length ≤ a) →
            (a < 0x8000 + 256 * sl.toNat ∨ 0x8000 + 256 * sl.toNat + p.length ≤ a) →
            t.byteAt a = s.byteAt a)) ∧
    (s.Receives (.queryRecv (.transact .meas sl .scan)) tag d (answerMove tag (.bytes b)) rest →
      st = 0x06 → s.params.paceMs ≠ 0 →
      ∃ t, step s = .next t ∧
        { t with mem := s.mem, slots := s.slots, fresh := s.fresh } = { s with
          inputs := rest, defer := false, tpReq := none, rxDeadline := none
          cont := .schedPace, sleepUntil := some (s.now + s.params.paceMs.setWidth 64)
          rstate := .succeeded, rxLen := BitVec.ofNat 9 b.length, chk := ⟨c, b.getLastD 0⟩
          respStatus := st, resultLen := BitVec.ofNat 8 p.length } ∧
        t.slot sl = { s.slot sl with
          recv := (s.slot sl).recv + 1, valLen := BitVec.ofNat 8 p.length, ts := s.now
          measAtt := s.attempts, measRState := .succeeded } ∧
        (∀ sl', sl' ≠ sl → t.slot sl' = s.slot sl') ∧
        (∀ j, t.fresh.getLsbD j = (s.fresh.getLsbD j || decide (j = sl.toNat))) ∧
        t.bytesAt 0x2000 b.length = b ∧ t.bytesAt 0x2100 p.length = p ∧
        t.bytesAt (0xA000 + 256 * sl.toNat) p.length = p ∧
        ∀ a, (a < 0x2000 ∨ 0x2000 + b.length ≤ a) → (a < 0x2100 ∨ 0x2100 + p.length ≤ a) →
          (a < 0xA000 + 256 * sl.toNat ∨ 0xA000 + 256 * sl.toNat + p.length ≤ a) →
          t.byteAt a = s.byteAt a)

/-- R246: RESULT_ACK: REC_PEND cleared and the wait_ack ended with the code, whatever ENG but HALTED;
without a record it is rejected. ERR, BUSY and DONE are not touched. -/
def Obligations.ResultAckCommandAcknowledges : Prop :=
  ∀ (c : Byte) (s : State), s.eng ≠ .halted →
    (s.recPend = true →
      exec (.resultAck c) s = .next { s with recPend := false, resume := some (.ack c) }) ∧
    (s.recPend = false →
      exec (.resultAck c) s =
        .next { s with rej := ⟨.noRecordPending, 0x0D⟩, irqPend := s.irqPend ||| 0b000100 })

/-- R240, R246, R306: after RESULT_ACK the scheduler goes on in the same step of the schedule: a nonzero
code is logged as PersistenceFailure (or counted in LOG_OVF if the FIFO is full), and the next FRESH
slot's record is presented. The value j + 1 of REC_NEXT is the model's: R51 names the iterator and gives
it no value (log entry 13). -/
def Obligations.AcknowledgedRecordGoesOn : Prop :=
  ∀ (s : State) (c : Byte) (j : Nat) (rest : List Move),
    s.eng = .sched → s.cont = .schedAck → s.recPend = true → s.resume = none →
    s.inputs = issueMove (encode (.resultAck c)) :: rest →
    s.recNext ≤ j → j < s.numAddr.toNat → s.fresh.getLsbD j = true →
    (∀ i, s.recNext ≤ i → i < j → s.fresh.getLsbD i = false) →
    step s = .next { s with
      inputs := rest, defer := false, recPend := true, recSlot := BitVec.ofNat 5 j
      recNext := j + 1
      evtFifo := if c = 0 then s.evtFifo
        else s.fifoAfter [eventWord .persistenceFailure c s.recSlot .sn]
      logOvf := if c = 0 then s.logOvf
        else s.ovfAfter [eventWord .persistenceFailure c s.recSlot .sn]
      irqPend := s.irqPend ||| (if c = 0 then 0b001000 else 0b101000) }

/-- R240, R241, R232, R233, R242: acknowledging the last record, with whatever code, completes the pass
(`State.passCompleted`): a nonzero code is logged, the transport closed, the time recorded, SCAN_DONE
raised; a bounded scheduler with no budget left idles, closed, for good, and any other goes back to
WAITING, where the minimum delay that now begins is awaited, or without one the open is requested. -/
def Obligations.LastAcknowledgementCompletesPass : Prop :=
  ∀ (s : State) (c : Byte) (rest : List Move),
    s.eng = .sched → s.cont = .schedAck → s.recPend = true → s.resume = none →
    s.inputs = issueMove (encode (.resultAck c)) :: rest →
    (∀ i, s.recNext ≤ i → i < s.numAddr.toNat → s.fresh.getLsbD i = false) → ¬ s.endlessWait →
    step s = .next { s with
      inputs := rest, defer := false, recPend := false
      evtFifo := if c = 0 then s.evtFifo
        else s.fifoAfter [eventWord .persistenceFailure c s.recSlot .sn]
      logOvf := if c = 0 then s.logOvf
        else s.ovfAfter [eventWord .persistenceFailure c s.recSlot .sn]
      irqPend := s.irqPend ||| (if c = 0 then 0b000000 else 0b100000) }.passCompleted

/-- R242: exhausted idle is quiescent: whatever step comes, other than reset or SHUTDOWN, the scheduler
stays in halt_idle, in IDLE, with no request made and the budget as it is. -/
def Obligations.ExhaustedIdleIsQuiescent : Prop :=
  ∀ (s t : State), s.eng = .sched → s.cont = .haltIdle → s.resume = none → s.NoWait →
    s.recPend = false → s.resetNext = false →
    (∀ d rest, s.inputs ≠ ⟨.write 0x0004 .word 0x0000000C, d⟩ :: rest) →
    step s = .next t →
    t.eng = .sched ∧ t.cont = .haltIdle ∧ t.resume = none ∧ t.NoWait ∧ t.recPend = false ∧
      t.sstate = s.sstate ∧ t.tpOpen = s.tpOpen ∧ t.tpLog = s.tpLog ∧
      t.remaining = s.remaining ∧ t.slots = s.slots

/-- R235, R233: an open failure of the scheduler is logged (or counted in LOG_OVF if the FIFO is full),
takes nothing from the budget, leaves LAST_SCAN and LAST_VALID, and sleeps POLL_MS; the tick that ends
the sleep tests the minimum delay again: with no scan completed, or with the delay satisfied, it opens
again, and else it sleeps POLL_MS in WAITING. -/
def Obligations.OpenFailureBacksOff : Prop :=
  ∀ (s : State) tag b d p st rest,
    (s.Calls .schedOpen tag (.openLine b d p st) (answerMove tag .fail) rest →
      s.params.pollMs ≠ 0 →
      step s = .next { s with
        inputs := rest, defer := false, tpReq := none, cont := .schedBackoff
        sleepUntil := some (s.now + s.params.pollMs.setWidth 64)
        evtFifo := s.fifoAfter [0x00000009], logOvf := s.ovfAfter [0x00000009]
        irqPend := s.irqPend ||| 0b100000 }) ∧
    (s.Wakes .schedBackoff rest → (s.unbounded = true ∨ s.remaining ≠ 0) →
      (s.lastValid = false ∨
        s.minScanDelay.toNat * 1000 ≤ (s.now + 1 - s.lastScan).toNat) →
      step s = .next { s with
        inputs := rest, defer := false, now := s.now + 1, sleepUntil := none
        cont := .schedOpen, sstate := .waiting
        tpReq := some ⟨s.tpSeq, .openLine s.params.baud s.params.dataBits s.params.parity
          s.params.stopBits⟩
        tpSeq := s.tpSeq + 1
        tpLog := .openLine s.params.baud s.params.dataBits s.params.parity s.params.stopBits ::
          s.tpLog }) ∧
    (s.Wakes .schedBackoff rest → (s.unbounded = true ∨ s.remaining ≠ 0) → s.lastValid = true →
      (s.now + 1 - s.lastScan).toNat < s.minScanDelay.toNat * 1000 → s.params.pollMs ≠ 0 →
      step s = .next { s with
        inputs := rest, defer := false, now := s.now + 1, cont := .schedPoll, sstate := .waiting
        sleepUntil := some (s.now + 1 + s.params.pollMs.setWidth 64) })

/-- R236, R237: a successful open takes one from a bounded budget and nothing from an unbounded one,
clears FRESH, and makes one dummy receive. Its end, by the deadline, by Timeout or by bytes, starts slot
0 (R238, `State.SlotStarted`); the bytes are discarded: RXBUF, RX_LEN and the counters stay. -/
def Obligations.ScanPassStarts : Prop :=
  (∀ (s : State) tag b d p st rest,
    s.Calls .schedOpen tag (.openLine b d p st) (answerMove tag .ok) rest →
    s.params.rxTimeoutMs ≠ 0 →
    step s = .next { s with
      inputs := rest, defer := false, cont := .schedFlush, tpOpen := true, fresh := 0
      remaining := if s.unbounded = true then s.remaining else s.remaining - 1
      tpReq := some ⟨s.tpSeq, .recvBytes s.params.rxCap s.params.rxTimeoutMs⟩
      tpSeq := s.tpSeq + 1
      tpLog := .recvBytes s.params.rxCap s.params.rxTimeoutMs :: s.tpLog
      rxDeadline := some (s.now + s.params.rxTimeoutMs.setWidth 64) }) ∧
  (∀ (s : State) tag d m (n : Time) rest,
    s.Receives .schedFlush tag d m rest →
    ((m = tickMove ∧ d = s.now + 1 ∧ n = s.now + 1) ∨
      ((m = answerMove tag .timeout ∨
          ∃ b, m = answerMove tag (.bytes b) ∧ b.length ≤ s.params.rxCap) ∧
        s.now < d ∧ n = s.now)) →
    1 ≤ s.numAddr.toNat → s.maxRetries ≠ 0 →
    (s.params.txCap < s.cmdLen0.toNat + 3 → s.params.paceMs ≠ 0) →
    ∃ t, step s = .next t ∧
      State.SlotStarted { s with
        inputs := rest, defer := false, now := n, tpReq := none, rxDeadline := none } t 0)

/-- R238, R239, R202, R307, R244: a Transact of the scheduler whose last attempt fails, in whichever way,
ends EXHAUSTED, its events logged and RETRY kept; the pacing delay of the slot starts in the same step,
with no request made. So a serial-number failure skips the slot's measurement, whose RETRY fields and
reading stay, and ERR and REJ are not written. -/
def Obligations.ScanFailureStartsPacing : Prop :=
  ∀ (s : State) (k : Kind) (sl : SlotId) (rest : List Move) (x : Failed),
    s.AttemptFails k sl .scan rest x → s.params.wf = true →
    s.maxRetries.toNat ≤ s.attempts.toNat → s.params.paceMs ≠ 0 →
    ∃ t, step s = .next t ∧
      { t with mem := s.mem, slots := s.slots } = { s with
        inputs := rest, defer := false, now := x.now, tpReq := none, rxDeadline := none
        cont := .schedPace, sleepUntil := some (x.now + s.params.paceMs.setWidth 64)
        rstate := .exhausted, lastFail := x.code
        rxLen := x.rxLen, chk := x.chk, respStatus := x.respStatus, resultLen := x.resultLen
        evtFifo := s.fifoAfter (x.events k sl ++ [eventWord .retriesExhausted x.code.byte sl k])
        logOvf := s.ovfAfter (x.events k sl ++ [eventWord .retriesExhausted x.code.byte sl k])
        irqPend := s.irqPend ||| 0b100000 } ∧
      t.slot sl = (x.slotAfter (s.slot sl)).withRetry k s.attempts .exhausted ∧
      (k = .sn → (t.slot sl).measAtt = (s.slot sl).measAtt ∧
        (t.slot sl).measRState = (s.slot sl).measRState) ∧
      (∀ sl', sl' ≠ sl → t.slot sl' = s.slot sl') ∧
      t.readingOf sl = s.readingOf sl ∧ s.StoresAnswer t x.rx x.result

/-- R245, R233: after a scan that ended at LAST_SCAN = NOW with MIN_SCAN_DELAY = D >= 1 seconds, the
next open is requested exactly POLL_MS * ceil(1000 D / POLL_MS) milliseconds later, and on no
earlier step does the scheduler make a request or change a slot. -/
def Obligations.NextScanOpensAtPollMultiple : Prop :=
  ∀ (s : State) (rest : List Move) (n : Nat),
    s.eng = .sched → s.cont = .schedPoll → s.resume = none → s.tpReq = none →
    s.rxDeadline = none → s.lastValid = true → s.lastScan = s.now →
    s.sleepUntil = some (s.now + s.params.pollMs.setWidth 64) → s.params.pollMs ≠ 0 →
    s.minScanDelay ≠ 0 →
    n = s.params.pollMs.toNat *
      ((1000 * s.minScanDelay.toNat + s.params.pollMs.toNat - 1) / s.params.pollMs.toNat) →
    s.now.toNat + n < 2 ^ 64 → s.inputs = List.replicate n tickMove ++ rest →
    (∀ k, k < n → ∃ u, stepN k s = .next u ∧ u.tpLog = s.tpLog ∧ u.tpReq = none ∧
      u.slots = s.slots ∧ u.cont = .schedPoll) ∧
    ∃ t, stepN n s = .next t ∧ t.cont = .schedOpen ∧ t.now.toNat = s.now.toNat + n ∧
      t.inputs = rest ∧ t.slots = s.slots ∧
      t.tpLog = .openLine s.params.baud s.params.dataBits s.params.parity s.params.stopBits ::
        s.tpLog

/-- R238, R239, R240: the tick that ends a slot's pacing goes on with the next slot (`State.SlotStarted`);
after the last slot, with WRITING: the first FRESH slot's record is presented with RECORD, and where no
slot is FRESH the pass completes (`State.passCompleted`, R241). The value of REC_NEXT is the model's (log
entry 13). -/
def Obligations.PacingEndGoesOn : Prop :=
  ∀ (s : State) (rest : List Move), s.Wakes .schedPace rest →
    (s.curSlot.toNat + 1 < s.numAddr.toNat → s.maxRetries ≠ 0 →
      (s.params.txCap < s.cmdLen0.toNat + 3 → s.params.paceMs ≠ 0) →
      ∃ t, step s = .next t ∧
        State.SlotStarted { s with
          inputs := rest, defer := false, now := s.now + 1, sleepUntil := none } t
          (s.curSlot + 1)) ∧
    (s.numAddr.toNat ≤ s.curSlot.toNat + 1 →
      (∀ j, j < s.numAddr.toNat → s.fresh.getLsbD j = true →
        (∀ i, i < j → s.fresh.getLsbD i = false) →
        step s = .next { s with
          inputs := rest, defer := false, now := s.now + 1, sleepUntil := none
          cont := .schedAck, sstate := .writing, recSlot := BitVec.ofNat 5 j, recPend := true
          recNext := j + 1, irqPend := s.irqPend ||| 0b001000 }) ∧
      ((∀ j, j < s.numAddr.toNat → s.fresh.getLsbD j = false) → ¬ s.endlessWait →
        step s = .next { s with
          inputs := rest, defer := false, now := s.now + 1, sleepUntil := none
          recNext := 0 }.passCompleted))

/-! ### Control -/

/-- R270: DELAY: with MS = 0 it completes in its first engine step, else it sleeps. And the wait is exact
in ticks: `DELAY ms` accepted at NOW completes at NOW + ms, with code 0, and not before. -/
def Obligations.DelayCommandSleepsExactly : Prop :=
  (∀ (ms : BitVec 24) (s : State), s.eng = .ready → s.defer = false →
    (ms = 0 →
      exec (.delay ms) s = .next { s with
        eng := .ready, cont := .none
        err := ⟨.none, .none, 0, .sn⟩, irqPend := s.irqPend ||| 0b000001 }) ∧
    (ms ≠ 0 →
      exec (.delay ms) s = .next { s with
        eng := .cmd, cont := .delaying, sleepUntil := some (s.now + ms.setWidth 64) })) ∧
  (∀ (ms : BitVec 24) (s : State) (rest : List Move), s.eng = .ready → s.defer = false → ms ≠ 0 →
    s.resume = none → s.NoWait → s.now.toNat + ms.toNat < 2 ^ 64 →
    s.inputs = List.replicate ms.toNat tickMove ++ rest →
    ∃ u, exec (.delay ms) s = .next u ∧
      (∀ k, k < ms.toNat → ∃ v, stepN k u = .next v ∧ v.eng = .cmd ∧
        v.now.toNat = s.now.toNat + k) ∧
      stepN ms.toNat u = .next { s with
        inputs := rest, now := s.now + ms.setWidth 64, eng := .ready, cont := .none
        err := ⟨.none, .none, 0, .sn⟩, irqPend := s.irqPend ||| 0b000001 })

/-- R272: SHUTDOWN in every mode. -/
def Obligations.ShutdownCommandHalts : Prop :=
  ∀ s : State,
    (s.eng = .halted → exec .shutdown s = .next s) ∧
    (s.eng ≠ .halted →
      exec .shutdown s = .next { s with
        eng := .halted, cont := .none, resume := none, sleepUntil := none, tpReq := none
        rxDeadline := none, recPend := false, sstate := .halted, tpOpen := false
        tpLog := if s.tpOpen = true then .closeLine :: s.tpLog else s.tpLog })

/-- R272, R321, R341: only reset leaves HALTED: any other step keeps the block halted, the transport
closed, and every slot, buffer byte and result register as it was. -/
def Obligations.HaltedUntilReset : Prop :=
  ∀ s t : State, s.Inv → s.eng = .halted → s.resetNext = false → step s = .next t →
    t.eng = .halted ∧ t.tpOpen = false ∧ t.cont = .none ∧ t.slots = s.slots ∧ t.mem = s.mem ∧
      t.err = s.err ∧ t.tpLog = s.tpLog ∧ t.config = s.config ∧ t.rxLen = s.rxLen ∧
      t.txLen = s.txLen ∧ t.statusWord = s.statusWord

/-! ### Issue -/

/-- R100, R310: for every command but SHUTDOWN and RESULT_ACK, Halted comes before Busy, and Busy
before the command's own preconditions; REJ and REJECT are all that changes. RESULT_ACK too is
rejected with Halted once halted. -/
def Obligations.HaltedThenBusyRejection : Prop :=
  ∀ (i : Instr) (s : State), i ≠ .shutdown →
    (s.eng = .halted →
      exec i s = .next { s with
        rej := ⟨.halted, (encode i).extractLsb' 0 8⟩, irqPend := s.irqPend ||| 0b000100 }) ∧
    ((∀ c, i ≠ .resultAck c) → (s.eng = .cmd ∨ s.eng = .sched) →
      exec i s = .next { s with
        rej := ⟨.busy, (encode i).extractLsb' 0 8⟩, irqPend := s.irqPend ||| 0b000100 })

/-- R168, R200, R201: QUERY's and TRANSACT's rejections, in the order listed: a closed transport, then
the slot, the payload length and (TRANSACT only) MAX_RETRIES. -/
def Obligations.SlotCommandRejections : Prop :=
  ∀ (k : Kind) (sl : SlotId) (s : State), s.eng = .ready →
    (s.tpOpen = false →
      exec (.query k sl) s = .next { s with
        rej := ⟨.transportStateError, 0x09⟩, irqPend := s.irqPend ||| 0b000100 } ∧
      exec (transactOf k sl) s = .next { s with
        rej := ⟨.transportStateError, 0x0A⟩, irqPend := s.irqPend ||| 0b000100 }) ∧
    (s.tpOpen = true → (s.params.maxSlots < s.numAddr.toNat ∨ s.numAddr.toNat ≤ sl.toNat ∨
        s.params.cmdBufCap < (s.cmdLen k).toNat) →
      exec (.query k sl) s = .next { s with
        rej := ⟨.configError, 0x09⟩, irqPend := s.irqPend ||| 0b000100 } ∧
      exec (transactOf k sl) s = .next { s with
        rej := ⟨.configError, 0x0A⟩, irqPend := s.irqPend ||| 0b000100 }) ∧
    (s.tpOpen = true → s.maxRetries = 0 →
      exec (transactOf k sl) s = .next { s with
        rej := ⟨.configError, 0x0A⟩, irqPend := s.irqPend ||| 0b000100 })

/-- R100, R85, R311: a run command whose first engine step the schedule defers is rejected exactly where,
and with the code with which, the undeferred issue is, and else is only accepted (BUSY set, nothing else
done); the engine step taken later, if nothing comes between, leaves the state that the undeferred
issue leaves. The deferral is how the model draws the interleaving (log entry
3). -/
def Obligations.DeferredStartRunsTheSame : Prop :=
  ∀ (i : Instr) (s : State), i ≠ .shutdown → i ≠ .scanStart → (∀ c, i ≠ .resultAck c) →
    s.eng = .ready → s.defer = true → s.resume = none →
    (∃ c, exec i s = .next { s with
        rej := ⟨c, (encode i).extractLsb' 0 8⟩, irqPend := s.irqPend ||| 0b000100 } ∧
      exec i { s with defer := false } = .next { s with
        defer := false
        rej := ⟨c, (encode i).extractLsb' 0 8⟩, irqPend := s.irqPend ||| 0b000100 }) ∨
    (exec i s = .next { s with eng := .cmd, cont := .start i, resume := some .go } ∧
      engineMove { s with eng := .cmd, cont := .start i, resume := some .go, defer := false } =
        exec i { s with defer := false })

/-! ### Invariants and whole-machine rules -/

/-- Every step keeps the invariant of the block, and no step changes a build parameter (R6). -/
def Obligations.StepKeepsInvariant : Prop :=
  ∀ s t : State, s.Inv → step s = .next t → t.Inv ∧ t.params = s.params

/-- From a state of the invariant, in a build with POLL_MS > 0, no step faults: an engine step always
finds the answer its suspension point waits for (R60), and it ends. -/
def Obligations.NoFaultFromInvariant : Prop :=
  ∀ s : State, s.Inv → s.params.pollMs ≠ 0 → ∀ f, step s ≠ .fault f

/-- R50, R363: NOW advances by one with each timebase step and by no other step; only reset sets it
back. -/
def Obligations.TimeAdvancesOnlyByTicks : Prop :=
  ∀ s t : State, step s = .next t →
    (s.tickNext = true ∧ s.resume = none → t.now = s.now + 1) ∧
    (s.resetNext = true → t.now = 0) ∧
    ((s.tickNext = false ∨ s.resume ≠ none) → s.resetNext = false → t.now = s.now)

/-- R24, R87, R351: while a command or the scheduler runs, and once halted, no step but reset changes
the configuration a command reads, nor any byte of CMDBUF0 and CMDBUF1. -/
def Obligations.ConfigurationLockedWhileRunning : Prop :=
  ∀ s t : State, s.Inv → s.eng ≠ .ready → s.resetNext = false → step s = .next t →
    t.config = s.config ∧ ∀ a, 0x3000 ≤ a → a < 0x5000 → t.byteAt a = s.byteAt a

/-- R231, R244: no engine step of the scheduler writes ERR or REJ, and none ends the scheduler. -/
def Obligations.SchedulerContainsFailures : Prop :=
  ∀ s t : State, s.Inv → s.eng = .sched → engineMove s = .next t →
    t.err = s.err ∧ t.rej = s.rej ∧ t.eng = .sched

/-- R22: while a transport request is outstanding, no step but its own answer, a tick (which may reach
a receive's deadline), SHUTDOWN or reset ends it or makes another. -/
def Obligations.OneRequestAtATime : Prop :=
  ∀ (s t : State) (o : Outstanding), s.Inv → s.tpReq = some o → s.tickNext = false →
    s.resetNext = false → (∀ a d rest, s.inputs ≠ ⟨.answer o.tag a, d⟩ :: rest) →
    (∀ d rest, s.inputs ≠ ⟨.write 0x0004 .word 0x0000000C, d⟩ :: rest) → step s = .next t →
    t.tpReq = some o ∧ t.tpSeq = s.tpSeq ∧ t.tpLog = s.tpLog

/-- R319, R47, R48: a slot's SENT, RECV and NAKC change only by one, modulo 2^32, and only in a step
that finds the engine in a Query for that slot: SENT at its send, RECV and NAKC at its receive. -/
def Obligations.CountersOnlyByOwnQuery : Prop :=
  ∀ (s t : State) (sl : SlotId), s.Inv → s.resetNext = false → step s = .next t →
    ((t.slot sl).sent ≠ (s.slot sl).sent →
      (t.slot sl).sent = (s.slot sl).sent + 1 ∧ ∃ q, s.cont = .querySend q ∧ q.slot = sl) ∧
    ((t.slot sl).recv ≠ (s.slot sl).recv →
      (t.slot sl).recv = (s.slot sl).recv + 1 ∧ ∃ q, s.cont = .queryRecv q ∧ q.slot = sl) ∧
    ((t.slot sl).nakc ≠ (s.slot sl).nakc →
      (t.slot sl).nakc = (s.slot sl).nakc + 1 ∧
        ∃ k o, s.cont = .queryRecv (.transact k sl o))

/-- R308: a bit of IRQ_PEND, once set, stays set in every step but a host write to IRQ_PEND and
reset. -/
def Obligations.InterruptBitsAreSticky : Prop :=
  ∀ s t : State, s.resetNext = false →
    (∀ v d rest, s.inputs ≠ ⟨.write 0x0014 .word v, d⟩ :: rest) → step s = .next t →
    s.irqPend &&& t.irqPend = s.irqPend

/-! ### Host access, interrupts and the event log -/

/-- R24, R351, R74, R75: a host write to an RWL location (MAX_RETRIES, MIN_SCAN_DELAY, SCAN_COUNT, NUM_ADDR, CMDLEN0,
CMDLEN1, RX_LEN, ADDR_TABLE, RXBUF, CMDBUF0, CMDBUF1) of a width and alignment it takes is ignored and
sets ACCESS_ERR while ENG is not READY, and is performed in READY, changing nothing else. A buffer takes
the value's bytes from the lowest address on, those past its end dropped; ADDR_TABLE the same, where
dropping what lies past its end is the model's reading (log entry 6). -/
def Obligations.LockedWritesIgnored : Prop :=
  ∀ (s : State) (v : Word), s.params.wf = true →
    (s.eng ≠ .ready →
      (∀ a ∈ rwlRegisters, s.memWrite a .word v = { s with accessErr := true }) ∧
      (∀ (a : HostAddr) w, covers a.toNat 0x0100 s.params.maxSlots → w ≠ .half →
        a.toNat % w.bytes = 0 → s.memWrite a w v = { s with accessErr := true }) ∧
      (∀ (a : HostAddr) w b n, (b, n) ∈ rwlBuffers s.params → covers a.toNat b n →
        a.toNat % w.bytes = 0 → s.memWrite a w v = { s with accessErr := true })) ∧
    (s.eng = .ready →
      s.memWrite 0x0030 .word v = { s with maxRetries := v.setWidth 8 } ∧
      s.memWrite 0x0034 .word v = { s with minScanDelay := v } ∧
      s.memWrite 0x0038 .word v = { s with scanCount := v } ∧
      s.memWrite 0x0040 .word v = { s with numAddr := v.setWidth 6 } ∧
      s.memWrite 0x0044 .word v = { s with cmdLen0 := v.setWidth 16 } ∧
      s.memWrite 0x0048 .word v = { s with cmdLen1 := v.setWidth 16 } ∧
      s.memWrite 0x0050 .word v = { s with rxLen := v.setWidth 9 } ∧
      (∀ (a : HostAddr) w, covers a.toNat 0x0100 s.params.maxSlots → w ≠ .half →
        a.toNat % w.bytes = 0 →
        { s.memWrite a w v with slots := s.slots } = s ∧
        ∀ j : SlotId, (s.memWrite a w v).slot j = { s.slot j with
          addr := if a.toNat ≤ 0x0100 + j.toNat ∧ 0x0100 + j.toNat < a.toNat + w.bytes ∧
              j.toNat < s.params.maxSlots
            then v.extractLsb' (8 * (0x0100 + j.toNat - a.toNat)) 8 else (s.slot j).addr }) ∧
      (∀ (a : HostAddr) w b n, (b, n) ∈ rwlBuffers s.params → covers a.toNat b n →
        a.toNat % w.bytes = 0 →
        { s.memWrite a w v with mem := s.mem } = s ∧
        ∀ a', (s.memWrite a w v).byteAt a' =
          if a.toNat ≤ a' ∧ a' < a.toNat + w.bytes ∧ a' < b + n
          then v.extractLsb' (8 * (a' - a.toNat)) 8 else s.byteAt a'))

/-- R75: a word read of RXBUF returns its four bytes with the lowest address in bits [7:0], and a word
write of RXBUF in READY stores them so and changes no other byte. -/
def Obligations.BufferWordsAreLittleEndian : Prop :=
  ∀ (s : State) (n : Nat) (v : Word), s.params.wf = true → 4 * n + 4 ≤ s.params.rxCap →
    s.memRead (BitVec.ofNat 16 (0x2000 + 4 * n)) .word =
      s.byteAt (0x2000 + 4 * n + 3) ++ s.byteAt (0x2000 + 4 * n + 2) ++
        s.byteAt (0x2000 + 4 * n + 1) ++ s.byteAt (0x2000 + 4 * n) ∧
    (s.eng = .ready →
      (s.memWrite (BitVec.ofNat 16 (0x2000 + 4 * n)) .word v).memRead
        (BitVec.ofNat 16 (0x2000 + 4 * n)) .word = v ∧
      ∀ a, a < 0x2000 + 4 * n ∨ 0x2000 + 4 * n + 4 ≤ a →
        (s.memWrite (BitVec.ofNat 16 (0x2000 + 4 * n)) .word v).byteAt a = s.byteAt a)

/-- R71, R73, R74: an access to an unmapped address, or of a width or alignment that its location does not
take, reads 0, writes nothing, and sets ACCESS_ERR; and every other access is none: a read of it leaves
ACCESS_ERR. Registers, PARAM0 to PARAM5 and slot words take aligned words, ADDR_TABLE bytes and aligned
words, buffers every aligned width. -/
def Obligations.AccessErrorsPerformNothing : Prop :=
  ∀ (s : State) (a : HostAddr) (w : Width) (v : Word), s.params.wf = true →
    ((¬ mappedAddr s.params a.toNat ∨ ¬ widthAllowed a.toNat w ∨ a.toNat % w.bytes ≠ 0) →
      s.memRead a w = 0 ∧ s.afterMemRead a w = { s with accessErr := true } ∧
        s.memWrite a w v = { s with accessErr := true }) ∧
    (mappedAddr s.params a.toNat → widthAllowed a.toNat w → a.toNat % w.bytes = 0 →
      (s.afterMemRead a w).accessErr = s.accessErr)

/-- R33, R34, R355: NOW, and LAST_SCAN, read LO word first, then HI word, is one value of the 64-bit
quantity, whatever number of ticks comes between the two reads, and whatever the engine does at them: HI
returns the shadow that the LO read copied. -/
def Obligations.TimeReadsWithoutTearing : Prop :=
  ∀ (s t : State) (n : Nat) (rest : List Move), s.inputs = List.replicate n tickMove ++ rest →
    (stepN n (hostRead 0x0020 .word s) = .next t →
      (hostRead 0x0020 .word s).hostData = s.now.extractLsb' 0 32 ∧
      t.memRead 0x0024 .word ++ (hostRead 0x0020 .word s).hostData = s.now) ∧
    (stepN n (hostRead 0x0028 .word s) = .next t →
      (hostRead 0x0028 .word s).hostData = s.lastScan.extractLsb' 0 32 ∧
      t.memRead 0x002C .word ++ (hostRead 0x0028 .word s).hostData = s.lastScan)

/-- R306, R45: the event word's fields; a log into a FIFO with room appends it and counts it in EVT_COUNT,
and a log into a full one only counts the drop, both raising LOG; a read of EVT_POP returns the
oldest word and removes it, and on an empty FIFO returns 0 and removes nothing. -/
def Obligations.EventLogIsBoundedFifo : Prop :=
  ∀ (s : State) (c : Code) (sub : Byte) (sl : SlotId) (k : Kind),
    (s.evtFifo.length < s.params.logDepth →
      s.log c sub sl k = { s with
        evtFifo := s.evtFifo ++ [eventWord c sub sl k], irqPend := s.irqPend ||| 0b100000 }) ∧
    (s.params.logDepth ≤ s.evtFifo.length →
      s.log c sub sl k = { s with logOvf := s.logOvf + 1, irqPend := s.irqPend ||| 0b100000 }) ∧
    (∀ w r, s.evtFifo = w :: r →
      hostRead 0x0064 .word s = { s with evtFifo := r, hostData := w }) ∧
    (s.evtFifo = [] → hostRead 0x0064 .word s = { s with hostData := 0 }) ∧
    (eventWord c sub sl k).extractLsb' 0 8 = c.byte ∧
    (eventWord c sub sl k).extractLsb' 8 8 = sub ∧
    (eventWord c sub sl k).extractLsb' 16 5 = sl ∧
    (eventWord c sub sl k).getLsbD 24 = decide (k = .meas) ∧
    eventWord c sub sl k &&& 0xFEE00000 = 0 ∧
    (s.evtFifo.length < s.params.logDepth → (s.log c sub sl k).evtCount = s.evtCount + 1)

/-- R309: the interrupt output is the OR over the sources of pending AND enabled; R31: writing 1 to a
bit of IRQ_PEND clears it and writing 0 leaves it. -/
def Obligations.InterruptOutputAndClear : Prop :=
  ∀ (s : State) (v : Word),
    (s.irqOut = true ↔ ∃ i, i < 6 ∧ s.irqPend.getLsbD i = true ∧ s.irqEn.getLsbD i = true) ∧
    (∀ i, i < 6 → (s.memWrite 0x0014 .word v).irqPend.getLsbD i =
      (s.irqPend.getLsbD i && !v.getLsbD i)) ∧
    { s.memWrite 0x0014 .word v with irqPend := s.irqPend } = s

/-- R26 to R30, R32, R47, R301: the fields of STATUS, bit by bit, with RSTATE's and SSTATE's encodings; of
ERR, REJ and CHK, with the numbers of the error codes; and the words of each slot that exists: SENT, RECV,
NAKC, RETRY with its fields, TS, SN_LEN and VAL_LEN. Unlisted bits read 0. -/
def Obligations.ResultRegisterFields : Prop :=
  ([RState.none, .attempting, .succeeded, .naked, .failed, .exhausted].map RState.bits =
    [0, 1, 2, 3, 4, 5] ∧
  [SState.off, .idle, .waiting, .scanning, .writing, .complete, .halted].map SState.bits =
    [0, 1, 2, 3, 4, 5, 6] ∧
  [Code.none, .encodingOverflow, .emptyResponse, .timeoutError, .checksumMismatch,
    .negativeAcknowledge, .unexpectedStatus, .sendFailure, .retriesExhausted,
    .transportOpenFailure, .persistenceFailure, .transportStateError, .illegalCommand, .busy,
    .configError, .noFrame, .noRecordPending, .halted].map Code.byte =
    [0x00, 0x01, 0x02, 0x03, 0x04, 0x05, 0x06, 0x07, 0x08, 0x09, 0x0A, 0x0B, 0x0C, 0x0D, 0x0E,
      0x0F, 0x10, 0x11]) ∧
  ∀ s : State,
    (s.memRead 0x0008 .word).getLsbD 0 = decide (s.eng = .cmd) ∧
    (s.memRead 0x0008 .word).getLsbD 1 = decide (s.eng = .sched) ∧
    (s.memRead 0x0008 .word).getLsbD 2 = s.tpOpen ∧
    (s.memRead 0x0008 .word).getLsbD 3 = s.txValid ∧
    (s.memRead 0x0008 .word).getLsbD 4 = s.recPend ∧
    (s.memRead 0x0008 .word).getLsbD 5 = decide (s.eng = .halted) ∧
    (s.memRead 0x0008 .word).getLsbD 6 = s.lastValid ∧
    (s.memRead 0x0008 .word).getLsbD 7 = s.unbounded ∧
    (s.memRead 0x0008 .word).extractLsb' 8 3 = s.rstate.bits ∧
    (s.memRead 0x0008 .word).getLsbD 11 = false ∧
    (s.memRead 0x0008 .word).extractLsb' 12 3 = s.sstate.bits ∧
    (s.memRead 0x0008 .word).getLsbD 15 = false ∧
    (s.memRead 0x0008 .word).extractLsb' 16 5 = s.curSlot ∧
    (s.memRead 0x0008 .word).extractLsb' 21 3 = 0#3 ∧
    (s.memRead 0x0008 .word).extractLsb' 24 8 = s.attempts ∧
    (s.memRead 0x000C .word).extractLsb' 0 8 = s.err.code.byte ∧
    (s.memRead 0x000C .word).extractLsb' 8 8 = s.err.last.byte ∧
    (s.memRead 0x000C .word).extractLsb' 16 5 = s.err.slot ∧
    (s.memRead 0x000C .word).getLsbD 24 = decide (s.err.kind = .meas) ∧
    s.memRead 0x000C .word &&& 0xFEE00000 = 0 ∧
    (s.memRead 0x0010 .word).extractLsb' 0 8 = s.rej.code.byte ∧
    (s.memRead 0x0010 .word).extractLsb' 8 8 = s.rej.op ∧
    s.memRead 0x0010 .word &&& 0xFFFF0000 = 0 ∧
    (s.memRead 0x001C .word).extractLsb' 0 8 = s.chk.calcd ∧
    (s.memRead 0x001C .word).extractLsb' 8 8 = s.chk.rcvd ∧
    s.memRead 0x001C .word &&& 0xFFFF0000 = 0 ∧
    ∀ sl : SlotId, s.params.wf = true → sl.toNat < s.params.maxSlots →
      s.memRead (0x0200 + 16 * sl.setWidth 16) .word = (s.slot sl).sent ∧
      s.memRead (0x0204 + 16 * sl.setWidth 16) .word = (s.slot sl).recv ∧
      s.memRead (0x0208 + 16 * sl.setWidth 16) .word = (s.slot sl).nakc ∧
      (s.memRead (0x020C + 16 * sl.setWidth 16) .word).extractLsb' 0 8 = (s.slot sl).snAtt ∧
      (s.memRead (0x020C + 16 * sl.setWidth 16) .word).extractLsb' 8 8 = (s.slot sl).measAtt ∧
      (s.memRead (0x020C + 16 * sl.setWidth 16) .word).extractLsb' 16 3 =
        (s.slot sl).snRState.bits ∧
      (s.memRead (0x020C + 16 * sl.setWidth 16) .word).extractLsb' 20 3 =
        (s.slot sl).measRState.bits ∧
      s.memRead (0x020C + 16 * sl.setWidth 16) .word &&& 0xFF880000 = 0 ∧
      s.memRead (0x0400 + 16 * sl.setWidth 16) .word = (s.slot sl).ts.extractLsb' 0 32 ∧
      s.memRead (0x0404 + 16 * sl.setWidth 16) .word = (s.slot sl).ts.extractLsb' 32 32 ∧
      s.memRead (0x0408 + 16 * sl.setWidth 16) .word = (s.slot sl).snLen.setWidth 32 ∧
      s.memRead (0x040C + 16 * sl.setWidth 16) .word = (s.slot sl).valLen.setWidth 32
end

