-- ==== Sys2Proof/Laws/Encoding.lean ====
section
/-! SUPPORT. The assembler's operand ranges, and the words of the formats read back field by field. -/

namespace Sys2Proof

/-- Every command has its operands in range (R120): the fields are exactly the ranges' widths. -/
theorem wellFormed_all (i : Instr) : i.wellFormed = true := by
  cases i <;> simp [Instr.wellFormed, Instr.line, Line.wellFormed] <;> omega

/-- An assembled line's command is the line's (R120). -/
theorem assemble_eq_some {l : Line} {i : Instr} (h : l.assemble = some i) :
    l.wellFormed = true ∧ i = l.toInstr := by
  unfold Line.assemble at h
  split_ifs at h with hw
  exact ⟨hw, by simpa using h.symm⟩

end Sys2Proof
end

