-- ==== Sys2Proof/Laws/State.lean ====
section
/-! SUPPORT. The fields of a state after each named update: one lemma per field per update, so that no
proof unfolds a record update. -/

namespace Sys2Proof.Machine

variable (s : State)

/-! ### raiseIrq -/

@[simp] theorem raiseIrq_params (b : Irq) : (s.raiseIrq b).params = s.params := rfl
@[simp] theorem raiseIrq_eng (b : Irq) : (s.raiseIrq b).eng = s.eng := rfl
@[simp] theorem raiseIrq_cont (b : Irq) : (s.raiseIrq b).cont = s.cont := rfl
@[simp] theorem raiseIrq_resume (b : Irq) : (s.raiseIrq b).resume = s.resume := rfl
@[simp] theorem raiseIrq_sleepUntil (b : Irq) : (s.raiseIrq b).sleepUntil = s.sleepUntil := rfl
@[simp] theorem raiseIrq_tpReq (b : Irq) : (s.raiseIrq b).tpReq = s.tpReq := rfl
@[simp] theorem raiseIrq_rxDeadline (b : Irq) : (s.raiseIrq b).rxDeadline = s.rxDeadline := rfl
@[simp] theorem raiseIrq_tpOpen (b : Irq) : (s.raiseIrq b).tpOpen = s.tpOpen := rfl
@[simp] theorem raiseIrq_txValid (b : Irq) : (s.raiseIrq b).txValid = s.txValid := rfl
@[simp] theorem raiseIrq_recPend (b : Irq) : (s.raiseIrq b).recPend = s.recPend := rfl
@[simp] theorem raiseIrq_lastValid (b : Irq) : (s.raiseIrq b).lastValid = s.lastValid := rfl
@[simp] theorem raiseIrq_unbounded (b : Irq) : (s.raiseIrq b).unbounded = s.unbounded := rfl
@[simp] theorem raiseIrq_rstate (b : Irq) : (s.raiseIrq b).rstate = s.rstate := rfl
@[simp] theorem raiseIrq_sstate (b : Irq) : (s.raiseIrq b).sstate = s.sstate := rfl
@[simp] theorem raiseIrq_curSlot (b : Irq) : (s.raiseIrq b).curSlot = s.curSlot := rfl
@[simp] theorem raiseIrq_attempts (b : Irq) : (s.raiseIrq b).attempts = s.attempts := rfl
@[simp] theorem raiseIrq_err (b : Irq) : (s.raiseIrq b).err = s.err := rfl
@[simp] theorem raiseIrq_rej (b : Irq) : (s.raiseIrq b).rej = s.rej := rfl
@[simp] theorem raiseIrq_irqPend (b : Irq) : (s.raiseIrq b).irqPend = s.irqPend ||| b.mask := rfl
@[simp] theorem raiseIrq_irqEn (b : Irq) : (s.raiseIrq b).irqEn = s.irqEn := rfl
@[simp] theorem raiseIrq_chk (b : Irq) : (s.raiseIrq b).chk = s.chk := rfl
@[simp] theorem raiseIrq_now (b : Irq) : (s.raiseIrq b).now = s.now := rfl
@[simp] theorem raiseIrq_nowHiSh (b : Irq) : (s.raiseIrq b).nowHiSh = s.nowHiSh := rfl
@[simp] theorem raiseIrq_lastScan (b : Irq) : (s.raiseIrq b).lastScan = s.lastScan := rfl
@[simp] theorem raiseIrq_lastHiSh (b : Irq) : (s.raiseIrq b).lastHiSh = s.lastHiSh := rfl
@[simp] theorem raiseIrq_maxRetries (b : Irq) : (s.raiseIrq b).maxRetries = s.maxRetries := rfl
@[simp] theorem raiseIrq_minScanDelay (b : Irq) :
    (s.raiseIrq b).minScanDelay = s.minScanDelay := rfl
@[simp] theorem raiseIrq_scanCount (b : Irq) : (s.raiseIrq b).scanCount = s.scanCount := rfl
@[simp] theorem raiseIrq_remaining (b : Irq) : (s.raiseIrq b).remaining = s.remaining := rfl
@[simp] theorem raiseIrq_numAddr (b : Irq) : (s.raiseIrq b).numAddr = s.numAddr := rfl
@[simp] theorem raiseIrq_cmdLen0 (b : Irq) : (s.raiseIrq b).cmdLen0 = s.cmdLen0 := rfl
@[simp] theorem raiseIrq_cmdLen1 (b : Irq) : (s.raiseIrq b).cmdLen1 = s.cmdLen1 := rfl
@[simp] theorem raiseIrq_txLen (b : Irq) : (s.raiseIrq b).txLen = s.txLen := rfl
@[simp] theorem raiseIrq_rxLen (b : Irq) : (s.raiseIrq b).rxLen = s.rxLen := rfl
@[simp] theorem raiseIrq_respStatus (b : Irq) : (s.raiseIrq b).respStatus = s.respStatus := rfl
@[simp] theorem raiseIrq_resultLen (b : Irq) : (s.raiseIrq b).resultLen = s.resultLen := rfl
@[simp] theorem raiseIrq_fresh (b : Irq) : (s.raiseIrq b).fresh = s.fresh := rfl
@[simp] theorem raiseIrq_recSlot (b : Irq) : (s.raiseIrq b).recSlot = s.recSlot := rfl
@[simp] theorem raiseIrq_recNext (b : Irq) : (s.raiseIrq b).recNext = s.recNext := rfl
@[simp] theorem raiseIrq_lastFail (b : Irq) : (s.raiseIrq b).lastFail = s.lastFail := rfl
@[simp] theorem raiseIrq_accessErr (b : Irq) : (s.raiseIrq b).accessErr = s.accessErr := rfl
@[simp] theorem raiseIrq_evtFifo (b : Irq) : (s.raiseIrq b).evtFifo = s.evtFifo := rfl
@[simp] theorem raiseIrq_logOvf (b : Irq) : (s.raiseIrq b).logOvf = s.logOvf := rfl
@[simp] theorem raiseIrq_slots (b : Irq) : (s.raiseIrq b).slots = s.slots := rfl
@[simp] theorem raiseIrq_mem (b : Irq) : (s.raiseIrq b).mem = s.mem := rfl
@[simp] theorem raiseIrq_epoch (b : Irq) : (s.raiseIrq b).epoch = s.epoch := rfl
@[simp] theorem raiseIrq_tpSeq (b : Irq) : (s.raiseIrq b).tpSeq = s.tpSeq := rfl
@[simp] theorem raiseIrq_tpLog (b : Irq) : (s.raiseIrq b).tpLog = s.tpLog := rfl
@[simp] theorem raiseIrq_inputs (b : Irq) : (s.raiseIrq b).inputs = s.inputs := rfl
@[simp] theorem raiseIrq_defer (b : Irq) : (s.raiseIrq b).defer = s.defer := rfl
@[simp] theorem raiseIrq_hostData (b : Irq) : (s.raiseIrq b).hostData = s.hostData := rfl

/-! ### log -/

@[simp] theorem log_params (c : Code) (sub : Byte) (sl : SlotId) (k : Kind) :
    (s.log c sub sl k).params = s.params := rfl
@[simp] theorem log_eng (c : Code) (sub : Byte) (sl : SlotId) (k : Kind) :
    (s.log c sub sl k).eng = s.eng := rfl
@[simp] theorem log_cont (c : Code) (sub : Byte) (sl : SlotId) (k : Kind) :
    (s.log c sub sl k).cont = s.cont := rfl
@[simp] theorem log_resume (c : Code) (sub : Byte) (sl : SlotId) (k : Kind) :
    (s.log c sub sl k).resume = s.resume := rfl
@[simp] theorem log_sleepUntil (c : Code) (sub : Byte) (sl : SlotId) (k : Kind) :
    (s.log c sub sl k).sleepUntil = s.sleepUntil := rfl
@[simp] theorem log_tpReq (c : Code) (sub : Byte) (sl : SlotId) (k : Kind) :
    (s.log c sub sl k).tpReq = s.tpReq := rfl
@[simp] theorem log_rxDeadline (c : Code) (sub : Byte) (sl : SlotId) (k : Kind) :
    (s.log c sub sl k).rxDeadline = s.rxDeadline := rfl
@[simp] theorem log_tpOpen (c : Code) (sub : Byte) (sl : SlotId) (k : Kind) :
    (s.log c sub sl k).tpOpen = s.tpOpen := rfl
@[simp] theorem log_txValid (c : Code) (sub : Byte) (sl : SlotId) (k : Kind) :
    (s.log c sub sl k).txValid = s.txValid := rfl
@[simp] theorem log_recPend (c : Code) (sub : Byte) (sl : SlotId) (k : Kind) :
    (s.log c sub sl k).recPend = s.recPend := rfl
@[simp] theorem log_lastValid (c : Code) (sub : Byte) (sl : SlotId) (k : Kind) :
    (s.log c sub sl k).lastValid = s.lastValid := rfl
@[simp] theorem log_unbounded (c : Code) (sub : Byte) (sl : SlotId) (k : Kind) :
    (s.log c sub sl k).unbounded = s.unbounded := rfl
@[simp] theorem log_rstate (c : Code) (sub : Byte) (sl : SlotId) (k : Kind) :
    (s.log c sub sl k).rstate = s.rstate := rfl
@[simp] theorem log_sstate (c : Code) (sub : Byte) (sl : SlotId) (k : Kind) :
    (s.log c sub sl k).sstate = s.sstate := rfl
@[simp] theorem log_curSlot (c : Code) (sub : Byte) (sl : SlotId) (k : Kind) :
    (s.log c sub sl k).curSlot = s.curSlot := rfl
@[simp] theorem log_attempts (c : Code) (sub : Byte) (sl : SlotId) (k : Kind) :
    (s.log c sub sl k).attempts = s.attempts := rfl
@[simp] theorem log_err (c : Code) (sub : Byte) (sl : SlotId) (k : Kind) :
    (s.log c sub sl k).err = s.err := rfl
@[simp] theorem log_rej (c : Code) (sub : Byte) (sl : SlotId) (k : Kind) :
    (s.log c sub sl k).rej = s.rej := rfl
@[simp] theorem log_irqPend (c : Code) (sub : Byte) (sl : SlotId) (k : Kind) :
    (s.log c sub sl k).irqPend = s.irqPend ||| Irq.log.mask := rfl
@[simp] theorem log_irqEn (c : Code) (sub : Byte) (sl : SlotId) (k : Kind) :
    (s.log c sub sl k).irqEn = s.irqEn := rfl
@[simp] theorem log_chk (c : Code) (sub : Byte) (sl : SlotId) (k : Kind) :
    (s.log c sub sl k).chk = s.chk := rfl
@[simp] theorem log_now (c : Code) (sub : Byte) (sl : SlotId) (k : Kind) :
    (s.log c sub sl k).now = s.now := rfl
@[simp] theorem log_nowHiSh (c : Code) (sub : Byte) (sl : SlotId) (k : Kind) :
    (s.log c sub sl k).nowHiSh = s.nowHiSh := rfl
@[simp] theorem log_lastScan (c : Code) (sub : Byte) (sl : SlotId) (k : Kind) :
    (s.log c sub sl k).lastScan = s.lastScan := rfl
@[simp] theorem log_lastHiSh (c : Code) (sub : Byte) (sl : SlotId) (k : Kind) :
    (s.log c sub sl k).lastHiSh = s.lastHiSh := rfl
@[simp] theorem log_maxRetries (c : Code) (sub : Byte) (sl : SlotId) (k : Kind) :
    (s.log c sub sl k).maxRetries = s.maxRetries := rfl
@[simp] theorem log_minScanDelay (c : Code) (sub : Byte) (sl : SlotId) (k : Kind) :
    (s.log c sub sl k).minScanDelay = s.minScanDelay := rfl
@[simp] theorem log_scanCount (c : Code) (sub : Byte) (sl : SlotId) (k : Kind) :
    (s.log c sub sl k).scanCount = s.scanCount := rfl
@[simp] theorem log_remaining (c : Code) (sub : Byte) (sl : SlotId) (k : Kind) :
    (s.log c sub sl k).remaining = s.remaining := rfl
@[simp] theorem log_numAddr (c : Code) (sub : Byte) (sl : SlotId) (k : Kind) :
    (s.log c sub sl k).numAddr = s.numAddr := rfl
@[simp] theorem log_cmdLen0 (c : Code) (sub : Byte) (sl : SlotId) (k : Kind) :
    (s.log c sub sl k).cmdLen0 = s.cmdLen0 := rfl
@[simp] theorem log_cmdLen1 (c : Code) (sub : Byte) (sl : SlotId) (k : Kind) :
    (s.log c sub sl k).cmdLen1 = s.cmdLen1 := rfl
@[simp] theorem log_txLen (c : Code) (sub : Byte) (sl : SlotId) (k : Kind) :
    (s.log c sub sl k).txLen = s.txLen := rfl
@[simp] theorem log_rxLen (c : Code) (sub : Byte) (sl : SlotId) (k : Kind) :
    (s.log c sub sl k).rxLen = s.rxLen := rfl
@[simp] theorem log_respStatus (c : Code) (sub : Byte) (sl : SlotId) (k : Kind) :
    (s.log c sub sl k).respStatus = s.respStatus := rfl
@[simp] theorem log_resultLen (c : Code) (sub : Byte) (sl : SlotId) (k : Kind) :
    (s.log c sub sl k).resultLen = s.resultLen := rfl
@[simp] theorem log_fresh (c : Code) (sub : Byte) (sl : SlotId) (k : Kind) :
    (s.log c sub sl k).fresh = s.fresh := rfl
@[simp] theorem log_recSlot (c : Code) (sub : Byte) (sl : SlotId) (k : Kind) :
    (s.log c sub sl k).recSlot = s.recSlot := rfl
@[simp] theorem log_recNext (c : Code) (sub : Byte) (sl : SlotId) (k : Kind) :
    (s.log c sub sl k).recNext = s.recNext := rfl
@[simp] theorem log_lastFail (c : Code) (sub : Byte) (sl : SlotId) (k : Kind) :
    (s.log c sub sl k).lastFail = s.lastFail := rfl
@[simp] theorem log_accessErr (c : Code) (sub : Byte) (sl : SlotId) (k : Kind) :
    (s.log c sub sl k).accessErr = s.accessErr := rfl
@[simp] theorem log_evtFifo (c : Code) (sub : Byte) (sl : SlotId) (k : Kind) :
    (s.log c sub sl k).evtFifo = if s.evtFifo.length < s.params.logDepth then s.evtFifo ++ [eventWord c sub sl k] else s.evtFifo := rfl
@[simp] theorem log_logOvf (c : Code) (sub : Byte) (sl : SlotId) (k : Kind) :
    (s.log c sub sl k).logOvf = if s.evtFifo.length < s.params.logDepth then s.logOvf else s.logOvf + 1 := rfl
@[simp] theorem log_slots (c : Code) (sub : Byte) (sl : SlotId) (k : Kind) :
    (s.log c sub sl k).slots = s.slots := rfl
@[simp] theorem log_mem (c : Code) (sub : Byte) (sl : SlotId) (k : Kind) :
    (s.log c sub sl k).mem = s.mem := rfl
@[simp] theorem log_epoch (c : Code) (sub : Byte) (sl : SlotId) (k : Kind) :
    (s.log c sub sl k).epoch = s.epoch := rfl
@[simp] theorem log_tpSeq (c : Code) (sub : Byte) (sl : SlotId) (k : Kind) :
    (s.log c sub sl k).tpSeq = s.tpSeq := rfl
@[simp] theorem log_tpLog (c : Code) (sub : Byte) (sl : SlotId) (k : Kind) :
    (s.log c sub sl k).tpLog = s.tpLog := rfl
@[simp] theorem log_inputs (c : Code) (sub : Byte) (sl : SlotId) (k : Kind) :
    (s.log c sub sl k).inputs = s.inputs := rfl
@[simp] theorem log_defer (c : Code) (sub : Byte) (sl : SlotId) (k : Kind) :
    (s.log c sub sl k).defer = s.defer := rfl
@[simp] theorem log_hostData (c : Code) (sub : Byte) (sl : SlotId) (k : Kind) :
    (s.log c sub sl k).hostData = s.hostData := rfl

/-! ### complete -/

@[simp] theorem complete_params (c l : Code) (sl : SlotId) (k : Kind) :
    (s.complete c l sl k).params = s.params := rfl
@[simp] theorem complete_eng (c l : Code) (sl : SlotId) (k : Kind) :
    (s.complete c l sl k).eng = .ready := rfl
@[simp] theorem complete_cont (c l : Code) (sl : SlotId) (k : Kind) :
    (s.complete c l sl k).cont = .none := rfl
@[simp] theorem complete_resume (c l : Code) (sl : SlotId) (k : Kind) :
    (s.complete c l sl k).resume = s.resume := rfl
@[simp] theorem complete_sleepUntil (c l : Code) (sl : SlotId) (k : Kind) :
    (s.complete c l sl k).sleepUntil = s.sleepUntil := rfl
@[simp] theorem complete_tpReq (c l : Code) (sl : SlotId) (k : Kind) :
    (s.complete c l sl k).tpReq = s.tpReq := rfl
@[simp] theorem complete_rxDeadline (c l : Code) (sl : SlotId) (k : Kind) :
    (s.complete c l sl k).rxDeadline = s.rxDeadline := rfl
@[simp] theorem complete_tpOpen (c l : Code) (sl : SlotId) (k : Kind) :
    (s.complete c l sl k).tpOpen = s.tpOpen := rfl
@[simp] theorem complete_txValid (c l : Code) (sl : SlotId) (k : Kind) :
    (s.complete c l sl k).txValid = s.txValid := rfl
@[simp] theorem complete_recPend (c l : Code) (sl : SlotId) (k : Kind) :
    (s.complete c l sl k).recPend = s.recPend := rfl
@[simp] theorem complete_lastValid (c l : Code) (sl : SlotId) (k : Kind) :
    (s.complete c l sl k).lastValid = s.lastValid := rfl
@[simp] theorem complete_unbounded (c l : Code) (sl : SlotId) (k : Kind) :
    (s.complete c l sl k).unbounded = s.unbounded := rfl
@[simp] theorem complete_rstate (c l : Code) (sl : SlotId) (k : Kind) :
    (s.complete c l sl k).rstate = s.rstate := rfl
@[simp] theorem complete_sstate (c l : Code) (sl : SlotId) (k : Kind) :
    (s.complete c l sl k).sstate = s.sstate := rfl
@[simp] theorem complete_curSlot (c l : Code) (sl : SlotId) (k : Kind) :
    (s.complete c l sl k).curSlot = s.curSlot := rfl
@[simp] theorem complete_attempts (c l : Code) (sl : SlotId) (k : Kind) :
    (s.complete c l sl k).attempts = s.attempts := rfl
@[simp] theorem complete_err (c l : Code) (sl : SlotId) (k : Kind) :
    (s.complete c l sl k).err = ⟨c, l, sl, k⟩ := rfl
@[simp] theorem complete_rej (c l : Code) (sl : SlotId) (k : Kind) :
    (s.complete c l sl k).rej = s.rej := rfl
@[simp] theorem complete_irqPend (c l : Code) (sl : SlotId) (k : Kind) :
    (s.complete c l sl k).irqPend = s.irqPend ||| Irq.done.mask ||| (if c = .none then 0 else Irq.error.mask) := rfl
@[simp] theorem complete_irqEn (c l : Code) (sl : SlotId) (k : Kind) :
    (s.complete c l sl k).irqEn = s.irqEn := rfl
@[simp] theorem complete_chk (c l : Code) (sl : SlotId) (k : Kind) :
    (s.complete c l sl k).chk = s.chk := rfl
@[simp] theorem complete_now (c l : Code) (sl : SlotId) (k : Kind) :
    (s.complete c l sl k).now = s.now := rfl
@[simp] theorem complete_nowHiSh (c l : Code) (sl : SlotId) (k : Kind) :
    (s.complete c l sl k).nowHiSh = s.nowHiSh := rfl
@[simp] theorem complete_lastScan (c l : Code) (sl : SlotId) (k : Kind) :
    (s.complete c l sl k).lastScan = s.lastScan := rfl
@[simp] theorem complete_lastHiSh (c l : Code) (sl : SlotId) (k : Kind) :
    (s.complete c l sl k).lastHiSh = s.lastHiSh := rfl
@[simp] theorem complete_maxRetries (c l : Code) (sl : SlotId) (k : Kind) :
    (s.complete c l sl k).maxRetries = s.maxRetries := rfl
@[simp] theorem complete_minScanDelay (c l : Code) (sl : SlotId) (k : Kind) :
    (s.complete c l sl k).minScanDelay = s.minScanDelay := rfl
@[simp] theorem complete_scanCount (c l : Code) (sl : SlotId) (k : Kind) :
    (s.complete c l sl k).scanCount = s.scanCount := rfl
@[simp] theorem complete_remaining (c l : Code) (sl : SlotId) (k : Kind) :
    (s.complete c l sl k).remaining = s.remaining := rfl
@[simp] theorem complete_numAddr (c l : Code) (sl : SlotId) (k : Kind) :
    (s.complete c l sl k).numAddr = s.numAddr := rfl
@[simp] theorem complete_cmdLen0 (c l : Code) (sl : SlotId) (k : Kind) :
    (s.complete c l sl k).cmdLen0 = s.cmdLen0 := rfl
@[simp] theorem complete_cmdLen1 (c l : Code) (sl : SlotId) (k : Kind) :
    (s.complete c l sl k).cmdLen1 = s.cmdLen1 := rfl
@[simp] theorem complete_txLen (c l : Code) (sl : SlotId) (k : Kind) :
    (s.complete c l sl k).txLen = s.txLen := rfl
@[simp] theorem complete_rxLen (c l : Code) (sl : SlotId) (k : Kind) :
    (s.complete c l sl k).rxLen = s.rxLen := rfl
@[simp] theorem complete_respStatus (c l : Code) (sl : SlotId) (k : Kind) :
    (s.complete c l sl k).respStatus = s.respStatus := rfl
@[simp] theorem complete_resultLen (c l : Code) (sl : SlotId) (k : Kind) :
    (s.complete c l sl k).resultLen = s.resultLen := rfl
@[simp] theorem complete_fresh (c l : Code) (sl : SlotId) (k : Kind) :
    (s.complete c l sl k).fresh = s.fresh := rfl
@[simp] theorem complete_recSlot (c l : Code) (sl : SlotId) (k : Kind) :
    (s.complete c l sl k).recSlot = s.recSlot := rfl
@[simp] theorem complete_recNext (c l : Code) (sl : SlotId) (k : Kind) :
    (s.complete c l sl k).recNext = s.recNext := rfl
@[simp] theorem complete_lastFail (c l : Code) (sl : SlotId) (k : Kind) :
    (s.complete c l sl k).lastFail = s.lastFail := rfl
@[simp] theorem complete_accessErr (c l : Code) (sl : SlotId) (k : Kind) :
    (s.complete c l sl k).accessErr = s.accessErr := rfl
@[simp] theorem complete_evtFifo (c l : Code) (sl : SlotId) (k : Kind) :
    (s.complete c l sl k).evtFifo = s.evtFifo := rfl
@[simp] theorem complete_logOvf (c l : Code) (sl : SlotId) (k : Kind) :
    (s.complete c l sl k).logOvf = s.logOvf := rfl
@[simp] theorem complete_slots (c l : Code) (sl : SlotId) (k : Kind) :
    (s.complete c l sl k).slots = s.slots := rfl
@[simp] theorem complete_mem (c l : Code) (sl : SlotId) (k : Kind) :
    (s.complete c l sl k).mem = s.mem := rfl
@[simp] theorem complete_epoch (c l : Code) (sl : SlotId) (k : Kind) :
    (s.complete c l sl k).epoch = s.epoch := rfl
@[simp] theorem complete_tpSeq (c l : Code) (sl : SlotId) (k : Kind) :
    (s.complete c l sl k).tpSeq = s.tpSeq := rfl
@[simp] theorem complete_tpLog (c l : Code) (sl : SlotId) (k : Kind) :
    (s.complete c l sl k).tpLog = s.tpLog := rfl
@[simp] theorem complete_inputs (c l : Code) (sl : SlotId) (k : Kind) :
    (s.complete c l sl k).inputs = s.inputs := rfl
@[simp] theorem complete_defer (c l : Code) (sl : SlotId) (k : Kind) :
    (s.complete c l sl k).defer = s.defer := rfl
@[simp] theorem complete_hostData (c l : Code) (sl : SlotId) (k : Kind) :
    (s.complete c l sl k).hostData = s.hostData := rfl

/-! ### reject -/

@[simp] theorem reject_params (c : Code) (op : Byte) : (s.reject c op).params = s.params := rfl
@[simp] theorem reject_eng (c : Code) (op : Byte) : (s.reject c op).eng = s.eng := rfl
@[simp] theorem reject_cont (c : Code) (op : Byte) : (s.reject c op).cont = s.cont := rfl
@[simp] theorem reject_resume (c : Code) (op : Byte) : (s.reject c op).resume = s.resume := rfl
@[simp] theorem reject_sleepUntil (c : Code) (op : Byte) :
    (s.reject c op).sleepUntil = s.sleepUntil := rfl
@[simp] theorem reject_tpReq (c : Code) (op : Byte) : (s.reject c op).tpReq = s.tpReq := rfl
@[simp] theorem reject_rxDeadline (c : Code) (op : Byte) :
    (s.reject c op).rxDeadline = s.rxDeadline := rfl
@[simp] theorem reject_tpOpen (c : Code) (op : Byte) : (s.reject c op).tpOpen = s.tpOpen := rfl
@[simp] theorem reject_txValid (c : Code) (op : Byte) : (s.reject c op).txValid = s.txValid := rfl
@[simp] theorem reject_recPend (c : Code) (op : Byte) : (s.reject c op).recPend = s.recPend := rfl
@[simp] theorem reject_lastValid (c : Code) (op : Byte) :
    (s.reject c op).lastValid = s.lastValid := rfl
@[simp] theorem reject_unbounded (c : Code) (op : Byte) :
    (s.reject c op).unbounded = s.unbounded := rfl
@[simp] theorem reject_rstate (c : Code) (op : Byte) : (s.reject c op).rstate = s.rstate := rfl
@[simp] theorem reject_sstate (c : Code) (op : Byte) : (s.reject c op).sstate = s.sstate := rfl
@[simp] theorem reject_curSlot (c : Code) (op : Byte) : (s.reject c op).curSlot = s.curSlot := rfl
@[simp] theorem reject_attempts (c : Code) (op : Byte) :
    (s.reject c op).attempts = s.attempts := rfl
@[simp] theorem reject_err (c : Code) (op : Byte) : (s.reject c op).err = s.err := rfl
@[simp] theorem reject_rej (c : Code) (op : Byte) : (s.reject c op).rej = ⟨c, op⟩ := rfl
@[simp] theorem reject_irqPend (c : Code) (op : Byte) :
    (s.reject c op).irqPend = s.irqPend ||| Irq.reject.mask := rfl
@[simp] theorem reject_irqEn (c : Code) (op : Byte) : (s.reject c op).irqEn = s.irqEn := rfl
@[simp] theorem reject_chk (c : Code) (op : Byte) : (s.reject c op).chk = s.chk := rfl
@[simp] theorem reject_now (c : Code) (op : Byte) : (s.reject c op).now = s.now := rfl
@[simp] theorem reject_nowHiSh (c : Code) (op : Byte) : (s.reject c op).nowHiSh = s.nowHiSh := rfl
@[simp] theorem reject_lastScan (c : Code) (op : Byte) :
    (s.reject c op).lastScan = s.lastScan := rfl
@[simp] theorem reject_lastHiSh (c : Code) (op : Byte) :
    (s.reject c op).lastHiSh = s.lastHiSh := rfl
@[simp] theorem reject_maxRetries (c : Code) (op : Byte) :
    (s.reject c op).maxRetries = s.maxRetries := rfl
@[simp] theorem reject_minScanDelay (c : Code) (op : Byte) :
    (s.reject c op).minScanDelay = s.minScanDelay := rfl
@[simp] theorem reject_scanCount (c : Code) (op : Byte) :
    (s.reject c op).scanCount = s.scanCount := rfl
@[simp] theorem reject_remaining (c : Code) (op : Byte) :
    (s.reject c op).remaining = s.remaining := rfl
@[simp] theorem reject_numAddr (c : Code) (op : Byte) : (s.reject c op).numAddr = s.numAddr := rfl
@[simp] theorem reject_cmdLen0 (c : Code) (op : Byte) : (s.reject c op).cmdLen0 = s.cmdLen0 := rfl
@[simp] theorem reject_cmdLen1 (c : Code) (op : Byte) : (s.reject c op).cmdLen1 = s.cmdLen1 := rfl
@[simp] theorem reject_txLen (c : Code) (op : Byte) : (s.reject c op).txLen = s.txLen := rfl
@[simp] theorem reject_rxLen (c : Code) (op : Byte) : (s.reject c op).rxLen = s.rxLen := rfl
@[simp] theorem reject_respStatus (c : Code) (op : Byte) :
    (s.reject c op).respStatus = s.respStatus := rfl
@[simp] theorem reject_resultLen (c : Code) (op : Byte) :
    (s.reject c op).resultLen = s.resultLen := rfl
@[simp] theorem reject_fresh (c : Code) (op : Byte) : (s.reject c op).fresh = s.fresh := rfl
@[simp] theorem reject_recSlot (c : Code) (op : Byte) : (s.reject c op).recSlot = s.recSlot := rfl
@[simp] theorem reject_recNext (c : Code) (op : Byte) : (s.reject c op).recNext = s.recNext := rfl
@[simp] theorem reject_lastFail (c : Code) (op : Byte) :
    (s.reject c op).lastFail = s.lastFail := rfl
@[simp] theorem reject_accessErr (c : Code) (op : Byte) :
    (s.reject c op).accessErr = s.accessErr := rfl
@[simp] theorem reject_evtFifo (c : Code) (op : Byte) : (s.reject c op).evtFifo = s.evtFifo := rfl
@[simp] theorem reject_logOvf (c : Code) (op : Byte) : (s.reject c op).logOvf = s.logOvf := rfl
@[simp] theorem reject_slots (c : Code) (op : Byte) : (s.reject c op).slots = s.slots := rfl
@[simp] theorem reject_mem (c : Code) (op : Byte) : (s.reject c op).mem = s.mem := rfl
@[simp] theorem reject_epoch (c : Code) (op : Byte) : (s.reject c op).epoch = s.epoch := rfl
@[simp] theorem reject_tpSeq (c : Code) (op : Byte) : (s.reject c op).tpSeq = s.tpSeq := rfl
@[simp] theorem reject_tpLog (c : Code) (op : Byte) : (s.reject c op).tpLog = s.tpLog := rfl
@[simp] theorem reject_inputs (c : Code) (op : Byte) : (s.reject c op).inputs = s.inputs := rfl
@[simp] theorem reject_defer (c : Code) (op : Byte) : (s.reject c op).defer = s.defer := rfl
@[simp] theorem reject_hostData (c : Code) (op : Byte) :
    (s.reject c op).hostData = s.hostData := rfl

/-! ### putBytes -/

@[simp] theorem putBytes_params (a : Nat) (bs : List Byte) :
    (s.putBytes a bs).params = s.params := rfl
@[simp] theorem putBytes_eng (a : Nat) (bs : List Byte) : (s.putBytes a bs).eng = s.eng := rfl
@[simp] theorem putBytes_cont (a : Nat) (bs : List Byte) : (s.putBytes a bs).cont = s.cont := rfl
@[simp] theorem putBytes_resume (a : Nat) (bs : List Byte) :
    (s.putBytes a bs).resume = s.resume := rfl
@[simp] theorem putBytes_sleepUntil (a : Nat) (bs : List Byte) :
    (s.putBytes a bs).sleepUntil = s.sleepUntil := rfl
@[simp] theorem putBytes_tpReq (a : Nat) (bs : List Byte) : (s.putBytes a bs).tpReq = s.tpReq := rfl
@[simp] theorem putBytes_rxDeadline (a : Nat) (bs : List Byte) :
    (s.putBytes a bs).rxDeadline = s.rxDeadline := rfl
@[simp] theorem putBytes_tpOpen (a : Nat) (bs : List Byte) :
    (s.putBytes a bs).tpOpen = s.tpOpen := rfl
@[simp] theorem putBytes_txValid (a : Nat) (bs : List Byte) :
    (s.putBytes a bs).txValid = s.txValid := rfl
@[simp] theorem putBytes_recPend (a : Nat) (bs : List Byte) :
    (s.putBytes a bs).recPend = s.recPend := rfl
@[simp] theorem putBytes_lastValid (a : Nat) (bs : List Byte) :
    (s.putBytes a bs).lastValid = s.lastValid := rfl
@[simp] theorem putBytes_unbounded (a : Nat) (bs : List Byte) :
    (s.putBytes a bs).unbounded = s.unbounded := rfl
@[simp] theorem putBytes_rstate (a : Nat) (bs : List Byte) :
    (s.putBytes a bs).rstate = s.rstate := rfl
@[simp] theorem putBytes_sstate (a : Nat) (bs : List Byte) :
    (s.putBytes a bs).sstate = s.sstate := rfl
@[simp] theorem putBytes_curSlot (a : Nat) (bs : List Byte) :
    (s.putBytes a bs).curSlot = s.curSlot := rfl
@[simp] theorem putBytes_attempts (a : Nat) (bs : List Byte) :
    (s.putBytes a bs).attempts = s.attempts := rfl
@[simp] theorem putBytes_err (a : Nat) (bs : List Byte) : (s.putBytes a bs).err = s.err := rfl
@[simp] theorem putBytes_rej (a : Nat) (bs : List Byte) : (s.putBytes a bs).rej = s.rej := rfl
@[simp] theorem putBytes_irqPend (a : Nat) (bs : List Byte) :
    (s.putBytes a bs).irqPend = s.irqPend := rfl
@[simp] theorem putBytes_irqEn (a : Nat) (bs : List Byte) : (s.putBytes a bs).irqEn = s.irqEn := rfl
@[simp] theorem putBytes_chk (a : Nat) (bs : List Byte) : (s.putBytes a bs).chk = s.chk := rfl
@[simp] theorem putBytes_now (a : Nat) (bs : List Byte) : (s.putBytes a bs).now = s.now := rfl
@[simp] theorem putBytes_nowHiSh (a : Nat) (bs : List Byte) :
    (s.putBytes a bs).nowHiSh = s.nowHiSh := rfl
@[simp] theorem putBytes_lastScan (a : Nat) (bs : List Byte) :
    (s.putBytes a bs).lastScan = s.lastScan := rfl
@[simp] theorem putBytes_lastHiSh (a : Nat) (bs : List Byte) :
    (s.putBytes a bs).lastHiSh = s.lastHiSh := rfl
@[simp] theorem putBytes_maxRetries (a : Nat) (bs : List Byte) :
    (s.putBytes a bs).maxRetries = s.maxRetries := rfl
@[simp] theorem putBytes_minScanDelay (a : Nat) (bs : List Byte) :
    (s.putBytes a bs).minScanDelay = s.minScanDelay := rfl
@[simp] theorem putBytes_scanCount (a : Nat) (bs : List Byte) :
    (s.putBytes a bs).scanCount = s.scanCount := rfl
@[simp] theorem putBytes_remaining (a : Nat) (bs : List Byte) :
    (s.putBytes a bs).remaining = s.remaining := rfl
@[simp] theorem putBytes_numAddr (a : Nat) (bs : List Byte) :
    (s.putBytes a bs).numAddr = s.numAddr := rfl
@[simp] theorem putBytes_cmdLen0 (a : Nat) (bs : List Byte) :
    (s.putBytes a bs).cmdLen0 = s.cmdLen0 := rfl
@[simp] theorem putBytes_cmdLen1 (a : Nat) (bs : List Byte) :
    (s.putBytes a bs).cmdLen1 = s.cmdLen1 := rfl
@[simp] theorem putBytes_txLen (a : Nat) (bs : List Byte) : (s.putBytes a bs).txLen = s.txLen := rfl
@[simp] theorem putBytes_rxLen (a : Nat) (bs : List Byte) : (s.putBytes a bs).rxLen = s.rxLen := rfl
@[simp] theorem putBytes_respStatus (a : Nat) (bs : List Byte) :
    (s.putBytes a bs).respStatus = s.respStatus := rfl
@[simp] theorem putBytes_resultLen (a : Nat) (bs : List Byte) :
    (s.putBytes a bs).resultLen = s.resultLen := rfl
@[simp] theorem putBytes_fresh (a : Nat) (bs : List Byte) : (s.putBytes a bs).fresh = s.fresh := rfl
@[simp] theorem putBytes_recSlot (a : Nat) (bs : List Byte) :
    (s.putBytes a bs).recSlot = s.recSlot := rfl
@[simp] theorem putBytes_recNext (a : Nat) (bs : List Byte) :
    (s.putBytes a bs).recNext = s.recNext := rfl
@[simp] theorem putBytes_lastFail (a : Nat) (bs : List Byte) :
    (s.putBytes a bs).lastFail = s.lastFail := rfl
@[simp] theorem putBytes_accessErr (a : Nat) (bs : List Byte) :
    (s.putBytes a bs).accessErr = s.accessErr := rfl
@[simp] theorem putBytes_evtFifo (a : Nat) (bs : List Byte) :
    (s.putBytes a bs).evtFifo = s.evtFifo := rfl
@[simp] theorem putBytes_logOvf (a : Nat) (bs : List Byte) :
    (s.putBytes a bs).logOvf = s.logOvf := rfl
@[simp] theorem putBytes_slots (a : Nat) (bs : List Byte) : (s.putBytes a bs).slots = s.slots := rfl
@[simp] theorem putBytes_mem (a : Nat) (bs : List Byte) :
    (s.putBytes a bs).mem = Memory.setBytes s.mem a bs := rfl
@[simp] theorem putBytes_epoch (a : Nat) (bs : List Byte) : (s.putBytes a bs).epoch = s.epoch := rfl
@[simp] theorem putBytes_tpSeq (a : Nat) (bs : List Byte) : (s.putBytes a bs).tpSeq = s.tpSeq := rfl
@[simp] theorem putBytes_tpLog (a : Nat) (bs : List Byte) : (s.putBytes a bs).tpLog = s.tpLog := rfl
@[simp] theorem putBytes_inputs (a : Nat) (bs : List Byte) :
    (s.putBytes a bs).inputs = s.inputs := rfl
@[simp] theorem putBytes_defer (a : Nat) (bs : List Byte) : (s.putBytes a bs).defer = s.defer := rfl
@[simp] theorem putBytes_hostData (a : Nat) (bs : List Byte) :
    (s.putBytes a bs).hostData = s.hostData := rfl

/-! ### setSlot -/

@[simp] theorem setSlot_params (sl : SlotId) (x : Slot) : (s.setSlot sl x).params = s.params := rfl
@[simp] theorem setSlot_eng (sl : SlotId) (x : Slot) : (s.setSlot sl x).eng = s.eng := rfl
@[simp] theorem setSlot_cont (sl : SlotId) (x : Slot) : (s.setSlot sl x).cont = s.cont := rfl
@[simp] theorem setSlot_resume (sl : SlotId) (x : Slot) : (s.setSlot sl x).resume = s.resume := rfl
@[simp] theorem setSlot_sleepUntil (sl : SlotId) (x : Slot) :
    (s.setSlot sl x).sleepUntil = s.sleepUntil := rfl
@[simp] theorem setSlot_tpReq (sl : SlotId) (x : Slot) : (s.setSlot sl x).tpReq = s.tpReq := rfl
@[simp] theorem setSlot_rxDeadline (sl : SlotId) (x : Slot) :
    (s.setSlot sl x).rxDeadline = s.rxDeadline := rfl
@[simp] theorem setSlot_tpOpen (sl : SlotId) (x : Slot) : (s.setSlot sl x).tpOpen = s.tpOpen := rfl
@[simp] theorem setSlot_txValid (sl : SlotId) (x : Slot) :
    (s.setSlot sl x).txValid = s.txValid := rfl
@[simp] theorem setSlot_recPend (sl : SlotId) (x : Slot) :
    (s.setSlot sl x).recPend = s.recPend := rfl
@[simp] theorem setSlot_lastValid (sl : SlotId) (x : Slot) :
    (s.setSlot sl x).lastValid = s.lastValid := rfl
@[simp] theorem setSlot_unbounded (sl : SlotId) (x : Slot) :
    (s.setSlot sl x).unbounded = s.unbounded := rfl
@[simp] theorem setSlot_rstate (sl : SlotId) (x : Slot) : (s.setSlot sl x).rstate = s.rstate := rfl
@[simp] theorem setSlot_sstate (sl : SlotId) (x : Slot) : (s.setSlot sl x).sstate = s.sstate := rfl
@[simp] theorem setSlot_curSlot (sl : SlotId) (x : Slot) :
    (s.setSlot sl x).curSlot = s.curSlot := rfl
@[simp] theorem setSlot_attempts (sl : SlotId) (x : Slot) :
    (s.setSlot sl x).attempts = s.attempts := rfl
@[simp] theorem setSlot_err (sl : SlotId) (x : Slot) : (s.setSlot sl x).err = s.err := rfl
@[simp] theorem setSlot_rej (sl : SlotId) (x : Slot) : (s.setSlot sl x).rej = s.rej := rfl
@[simp] theorem setSlot_irqPend (sl : SlotId) (x : Slot) :
    (s.setSlot sl x).irqPend = s.irqPend := rfl
@[simp] theorem setSlot_irqEn (sl : SlotId) (x : Slot) : (s.setSlot sl x).irqEn = s.irqEn := rfl
@[simp] theorem setSlot_chk (sl : SlotId) (x : Slot) : (s.setSlot sl x).chk = s.chk := rfl
@[simp] theorem setSlot_now (sl : SlotId) (x : Slot) : (s.setSlot sl x).now = s.now := rfl
@[simp] theorem setSlot_nowHiSh (sl : SlotId) (x : Slot) :
    (s.setSlot sl x).nowHiSh = s.nowHiSh := rfl
@[simp] theorem setSlot_lastScan (sl : SlotId) (x : Slot) :
    (s.setSlot sl x).lastScan = s.lastScan := rfl
@[simp] theorem setSlot_lastHiSh (sl : SlotId) (x : Slot) :
    (s.setSlot sl x).lastHiSh = s.lastHiSh := rfl
@[simp] theorem setSlot_maxRetries (sl : SlotId) (x : Slot) :
    (s.setSlot sl x).maxRetries = s.maxRetries := rfl
@[simp] theorem setSlot_minScanDelay (sl : SlotId) (x : Slot) :
    (s.setSlot sl x).minScanDelay = s.minScanDelay := rfl
@[simp] theorem setSlot_scanCount (sl : SlotId) (x : Slot) :
    (s.setSlot sl x).scanCount = s.scanCount := rfl
@[simp] theorem setSlot_remaining (sl : SlotId) (x : Slot) :
    (s.setSlot sl x).remaining = s.remaining := rfl
@[simp] theorem setSlot_numAddr (sl : SlotId) (x : Slot) :
    (s.setSlot sl x).numAddr = s.numAddr := rfl
@[simp] theorem setSlot_cmdLen0 (sl : SlotId) (x : Slot) :
    (s.setSlot sl x).cmdLen0 = s.cmdLen0 := rfl
@[simp] theorem setSlot_cmdLen1 (sl : SlotId) (x : Slot) :
    (s.setSlot sl x).cmdLen1 = s.cmdLen1 := rfl
@[simp] theorem setSlot_txLen (sl : SlotId) (x : Slot) : (s.setSlot sl x).txLen = s.txLen := rfl
@[simp] theorem setSlot_rxLen (sl : SlotId) (x : Slot) : (s.setSlot sl x).rxLen = s.rxLen := rfl
@[simp] theorem setSlot_respStatus (sl : SlotId) (x : Slot) :
    (s.setSlot sl x).respStatus = s.respStatus := rfl
@[simp] theorem setSlot_resultLen (sl : SlotId) (x : Slot) :
    (s.setSlot sl x).resultLen = s.resultLen := rfl
@[simp] theorem setSlot_fresh (sl : SlotId) (x : Slot) : (s.setSlot sl x).fresh = s.fresh := rfl
@[simp] theorem setSlot_recSlot (sl : SlotId) (x : Slot) :
    (s.setSlot sl x).recSlot = s.recSlot := rfl
@[simp] theorem setSlot_recNext (sl : SlotId) (x : Slot) :
    (s.setSlot sl x).recNext = s.recNext := rfl
@[simp] theorem setSlot_lastFail (sl : SlotId) (x : Slot) :
    (s.setSlot sl x).lastFail = s.lastFail := rfl
@[simp] theorem setSlot_accessErr (sl : SlotId) (x : Slot) :
    (s.setSlot sl x).accessErr = s.accessErr := rfl
@[simp] theorem setSlot_evtFifo (sl : SlotId) (x : Slot) :
    (s.setSlot sl x).evtFifo = s.evtFifo := rfl
@[simp] theorem setSlot_logOvf (sl : SlotId) (x : Slot) : (s.setSlot sl x).logOvf = s.logOvf := rfl
@[simp] theorem setSlot_slots (sl : SlotId) (x : Slot) :
    (s.setSlot sl x).slots = s.slots.set sl.toNat x sl.isLt := rfl
@[simp] theorem setSlot_mem (sl : SlotId) (x : Slot) : (s.setSlot sl x).mem = s.mem := rfl
@[simp] theorem setSlot_epoch (sl : SlotId) (x : Slot) : (s.setSlot sl x).epoch = s.epoch := rfl
@[simp] theorem setSlot_tpSeq (sl : SlotId) (x : Slot) : (s.setSlot sl x).tpSeq = s.tpSeq := rfl
@[simp] theorem setSlot_tpLog (sl : SlotId) (x : Slot) : (s.setSlot sl x).tpLog = s.tpLog := rfl
@[simp] theorem setSlot_inputs (sl : SlotId) (x : Slot) : (s.setSlot sl x).inputs = s.inputs := rfl
@[simp] theorem setSlot_defer (sl : SlotId) (x : Slot) : (s.setSlot sl x).defer = s.defer := rfl
@[simp] theorem setSlot_hostData (sl : SlotId) (x : Slot) :
    (s.setSlot sl x).hostData = s.hostData := rfl

/-! ### tpCall -/

@[simp] theorem tpCall_params (r : TpReq) (c : Cont) : (s.tpCall r c).params = s.params := rfl
@[simp] theorem tpCall_eng (r : TpReq) (c : Cont) : (s.tpCall r c).eng = s.eng := rfl
@[simp] theorem tpCall_cont (r : TpReq) (c : Cont) : (s.tpCall r c).cont = c := rfl
@[simp] theorem tpCall_resume (r : TpReq) (c : Cont) : (s.tpCall r c).resume = s.resume := rfl
@[simp] theorem tpCall_sleepUntil (r : TpReq) (c : Cont) :
    (s.tpCall r c).sleepUntil = s.sleepUntil := rfl
@[simp] theorem tpCall_tpReq (r : TpReq) (c : Cont) :
    (s.tpCall r c).tpReq = some ⟨s.tpSeq, r⟩ := rfl
@[simp] theorem tpCall_rxDeadline (r : TpReq) (c : Cont) :
    (s.tpCall r c).rxDeadline = s.rxDeadline := rfl
@[simp] theorem tpCall_tpOpen (r : TpReq) (c : Cont) : (s.tpCall r c).tpOpen = s.tpOpen := rfl
@[simp] theorem tpCall_txValid (r : TpReq) (c : Cont) : (s.tpCall r c).txValid = s.txValid := rfl
@[simp] theorem tpCall_recPend (r : TpReq) (c : Cont) : (s.tpCall r c).recPend = s.recPend := rfl
@[simp] theorem tpCall_lastValid (r : TpReq) (c : Cont) :
    (s.tpCall r c).lastValid = s.lastValid := rfl
@[simp] theorem tpCall_unbounded (r : TpReq) (c : Cont) :
    (s.tpCall r c).unbounded = s.unbounded := rfl
@[simp] theorem tpCall_rstate (r : TpReq) (c : Cont) : (s.tpCall r c).rstate = s.rstate := rfl
@[simp] theorem tpCall_sstate (r : TpReq) (c : Cont) : (s.tpCall r c).sstate = s.sstate := rfl
@[simp] theorem tpCall_curSlot (r : TpReq) (c : Cont) : (s.tpCall r c).curSlot = s.curSlot := rfl
@[simp] theorem tpCall_attempts (r : TpReq) (c : Cont) : (s.tpCall r c).attempts = s.attempts := rfl
@[simp] theorem tpCall_err (r : TpReq) (c : Cont) : (s.tpCall r c).err = s.err := rfl
@[simp] theorem tpCall_rej (r : TpReq) (c : Cont) : (s.tpCall r c).rej = s.rej := rfl
@[simp] theorem tpCall_irqPend (r : TpReq) (c : Cont) : (s.tpCall r c).irqPend = s.irqPend := rfl
@[simp] theorem tpCall_irqEn (r : TpReq) (c : Cont) : (s.tpCall r c).irqEn = s.irqEn := rfl
@[simp] theorem tpCall_chk (r : TpReq) (c : Cont) : (s.tpCall r c).chk = s.chk := rfl
@[simp] theorem tpCall_now (r : TpReq) (c : Cont) : (s.tpCall r c).now = s.now := rfl
@[simp] theorem tpCall_nowHiSh (r : TpReq) (c : Cont) : (s.tpCall r c).nowHiSh = s.nowHiSh := rfl
@[simp] theorem tpCall_lastScan (r : TpReq) (c : Cont) : (s.tpCall r c).lastScan = s.lastScan := rfl
@[simp] theorem tpCall_lastHiSh (r : TpReq) (c : Cont) : (s.tpCall r c).lastHiSh = s.lastHiSh := rfl
@[simp] theorem tpCall_maxRetries (r : TpReq) (c : Cont) :
    (s.tpCall r c).maxRetries = s.maxRetries := rfl
@[simp] theorem tpCall_minScanDelay (r : TpReq) (c : Cont) :
    (s.tpCall r c).minScanDelay = s.minScanDelay := rfl
@[simp] theorem tpCall_scanCount (r : TpReq) (c : Cont) :
    (s.tpCall r c).scanCount = s.scanCount := rfl
@[simp] theorem tpCall_remaining (r : TpReq) (c : Cont) :
    (s.tpCall r c).remaining = s.remaining := rfl
@[simp] theorem tpCall_numAddr (r : TpReq) (c : Cont) : (s.tpCall r c).numAddr = s.numAddr := rfl
@[simp] theorem tpCall_cmdLen0 (r : TpReq) (c : Cont) : (s.tpCall r c).cmdLen0 = s.cmdLen0 := rfl
@[simp] theorem tpCall_cmdLen1 (r : TpReq) (c : Cont) : (s.tpCall r c).cmdLen1 = s.cmdLen1 := rfl
@[simp] theorem tpCall_txLen (r : TpReq) (c : Cont) : (s.tpCall r c).txLen = s.txLen := rfl
@[simp] theorem tpCall_rxLen (r : TpReq) (c : Cont) : (s.tpCall r c).rxLen = s.rxLen := rfl
@[simp] theorem tpCall_respStatus (r : TpReq) (c : Cont) :
    (s.tpCall r c).respStatus = s.respStatus := rfl
@[simp] theorem tpCall_resultLen (r : TpReq) (c : Cont) :
    (s.tpCall r c).resultLen = s.resultLen := rfl
@[simp] theorem tpCall_fresh (r : TpReq) (c : Cont) : (s.tpCall r c).fresh = s.fresh := rfl
@[simp] theorem tpCall_recSlot (r : TpReq) (c : Cont) : (s.tpCall r c).recSlot = s.recSlot := rfl
@[simp] theorem tpCall_recNext (r : TpReq) (c : Cont) : (s.tpCall r c).recNext = s.recNext := rfl
@[simp] theorem tpCall_lastFail (r : TpReq) (c : Cont) : (s.tpCall r c).lastFail = s.lastFail := rfl
@[simp] theorem tpCall_accessErr (r : TpReq) (c : Cont) :
    (s.tpCall r c).accessErr = s.accessErr := rfl
@[simp] theorem tpCall_evtFifo (r : TpReq) (c : Cont) : (s.tpCall r c).evtFifo = s.evtFifo := rfl
@[simp] theorem tpCall_logOvf (r : TpReq) (c : Cont) : (s.tpCall r c).logOvf = s.logOvf := rfl
@[simp] theorem tpCall_slots (r : TpReq) (c : Cont) : (s.tpCall r c).slots = s.slots := rfl
@[simp] theorem tpCall_mem (r : TpReq) (c : Cont) : (s.tpCall r c).mem = s.mem := rfl
@[simp] theorem tpCall_epoch (r : TpReq) (c : Cont) : (s.tpCall r c).epoch = s.epoch := rfl
@[simp] theorem tpCall_tpSeq (r : TpReq) (c : Cont) : (s.tpCall r c).tpSeq = s.tpSeq + 1 := rfl
@[simp] theorem tpCall_tpLog (r : TpReq) (c : Cont) : (s.tpCall r c).tpLog = r :: s.tpLog := rfl
@[simp] theorem tpCall_inputs (r : TpReq) (c : Cont) : (s.tpCall r c).inputs = s.inputs := rfl
@[simp] theorem tpCall_defer (r : TpReq) (c : Cont) : (s.tpCall r c).defer = s.defer := rfl
@[simp] theorem tpCall_hostData (r : TpReq) (c : Cont) : (s.tpCall r c).hostData = s.hostData := rfl

/-! ### closeTp -/

@[simp] theorem closeTp_params : (s.closeTp).params = s.params := rfl
@[simp] theorem closeTp_eng : (s.closeTp).eng = s.eng := rfl
@[simp] theorem closeTp_cont : (s.closeTp).cont = s.cont := rfl
@[simp] theorem closeTp_resume : (s.closeTp).resume = s.resume := rfl
@[simp] theorem closeTp_sleepUntil : (s.closeTp).sleepUntil = s.sleepUntil := rfl
@[simp] theorem closeTp_tpReq : (s.closeTp).tpReq = s.tpReq := rfl
@[simp] theorem closeTp_rxDeadline : (s.closeTp).rxDeadline = s.rxDeadline := rfl
@[simp] theorem closeTp_tpOpen : (s.closeTp).tpOpen = false := rfl
@[simp] theorem closeTp_txValid : (s.closeTp).txValid = s.txValid := rfl
@[simp] theorem closeTp_recPend : (s.closeTp).recPend = s.recPend := rfl
@[simp] theorem closeTp_lastValid : (s.closeTp).lastValid = s.lastValid := rfl
@[simp] theorem closeTp_unbounded : (s.closeTp).unbounded = s.unbounded := rfl
@[simp] theorem closeTp_rstate : (s.closeTp).rstate = s.rstate := rfl
@[simp] theorem closeTp_sstate : (s.closeTp).sstate = s.sstate := rfl
@[simp] theorem closeTp_curSlot : (s.closeTp).curSlot = s.curSlot := rfl
@[simp] theorem closeTp_attempts : (s.closeTp).attempts = s.attempts := rfl
@[simp] theorem closeTp_err : (s.closeTp).err = s.err := rfl
@[simp] theorem closeTp_rej : (s.closeTp).rej = s.rej := rfl
@[simp] theorem closeTp_irqPend : (s.closeTp).irqPend = s.irqPend := rfl
@[simp] theorem closeTp_irqEn : (s.closeTp).irqEn = s.irqEn := rfl
@[simp] theorem closeTp_chk : (s.closeTp).chk = s.chk := rfl
@[simp] theorem closeTp_now : (s.closeTp).now = s.now := rfl
@[simp] theorem closeTp_nowHiSh : (s.closeTp).nowHiSh = s.nowHiSh := rfl
@[simp] theorem closeTp_lastScan : (s.closeTp).lastScan = s.lastScan := rfl
@[simp] theorem closeTp_lastHiSh : (s.closeTp).lastHiSh = s.lastHiSh := rfl
@[simp] theorem closeTp_maxRetries : (s.closeTp).maxRetries = s.maxRetries := rfl
@[simp] theorem closeTp_minScanDelay : (s.closeTp).minScanDelay = s.minScanDelay := rfl
@[simp] theorem closeTp_scanCount : (s.closeTp).scanCount = s.scanCount := rfl
@[simp] theorem closeTp_remaining : (s.closeTp).remaining = s.remaining := rfl
@[simp] theorem closeTp_numAddr : (s.closeTp).numAddr = s.numAddr := rfl
@[simp] theorem closeTp_cmdLen0 : (s.closeTp).cmdLen0 = s.cmdLen0 := rfl
@[simp] theorem closeTp_cmdLen1 : (s.closeTp).cmdLen1 = s.cmdLen1 := rfl
@[simp] theorem closeTp_txLen : (s.closeTp).txLen = s.txLen := rfl
@[simp] theorem closeTp_rxLen : (s.closeTp).rxLen = s.rxLen := rfl
@[simp] theorem closeTp_respStatus : (s.closeTp).respStatus = s.respStatus := rfl
@[simp] theorem closeTp_resultLen : (s.closeTp).resultLen = s.resultLen := rfl
@[simp] theorem closeTp_fresh : (s.closeTp).fresh = s.fresh := rfl
@[simp] theorem closeTp_recSlot : (s.closeTp).recSlot = s.recSlot := rfl
@[simp] theorem closeTp_recNext : (s.closeTp).recNext = s.recNext := rfl
@[simp] theorem closeTp_lastFail : (s.closeTp).lastFail = s.lastFail := rfl
@[simp] theorem closeTp_accessErr : (s.closeTp).accessErr = s.accessErr := rfl
@[simp] theorem closeTp_evtFifo : (s.closeTp).evtFifo = s.evtFifo := rfl
@[simp] theorem closeTp_logOvf : (s.closeTp).logOvf = s.logOvf := rfl
@[simp] theorem closeTp_slots : (s.closeTp).slots = s.slots := rfl
@[simp] theorem closeTp_mem : (s.closeTp).mem = s.mem := rfl
@[simp] theorem closeTp_epoch : (s.closeTp).epoch = s.epoch := rfl
@[simp] theorem closeTp_tpSeq : (s.closeTp).tpSeq = s.tpSeq := rfl
@[simp] theorem closeTp_tpLog : (s.closeTp).tpLog = .closeLine :: s.tpLog := rfl
@[simp] theorem closeTp_inputs : (s.closeTp).inputs = s.inputs := rfl
@[simp] theorem closeTp_defer : (s.closeTp).defer = s.defer := rfl
@[simp] theorem closeTp_hostData : (s.closeTp).hostData = s.hostData := rfl

/-! ### receiveNow -/

@[simp] theorem receiveNow_params : (s.receiveNow).params = s.params := rfl
@[simp] theorem receiveNow_eng : (s.receiveNow).eng = s.eng := rfl
@[simp] theorem receiveNow_cont : (s.receiveNow).cont = s.cont := rfl
@[simp] theorem receiveNow_resume : (s.receiveNow).resume = s.resume := rfl
@[simp] theorem receiveNow_sleepUntil : (s.receiveNow).sleepUntil = s.sleepUntil := rfl
@[simp] theorem receiveNow_tpReq : (s.receiveNow).tpReq = s.tpReq := rfl
@[simp] theorem receiveNow_rxDeadline : (s.receiveNow).rxDeadline = s.rxDeadline := rfl
@[simp] theorem receiveNow_tpOpen : (s.receiveNow).tpOpen = s.tpOpen := rfl
@[simp] theorem receiveNow_txValid : (s.receiveNow).txValid = s.txValid := rfl
@[simp] theorem receiveNow_recPend : (s.receiveNow).recPend = s.recPend := rfl
@[simp] theorem receiveNow_lastValid : (s.receiveNow).lastValid = s.lastValid := rfl
@[simp] theorem receiveNow_unbounded : (s.receiveNow).unbounded = s.unbounded := rfl
@[simp] theorem receiveNow_rstate : (s.receiveNow).rstate = s.rstate := rfl
@[simp] theorem receiveNow_sstate : (s.receiveNow).sstate = s.sstate := rfl
@[simp] theorem receiveNow_curSlot : (s.receiveNow).curSlot = s.curSlot := rfl
@[simp] theorem receiveNow_attempts : (s.receiveNow).attempts = s.attempts := rfl
@[simp] theorem receiveNow_err : (s.receiveNow).err = s.err := rfl
@[simp] theorem receiveNow_rej : (s.receiveNow).rej = s.rej := rfl
@[simp] theorem receiveNow_irqPend : (s.receiveNow).irqPend = s.irqPend := rfl
@[simp] theorem receiveNow_irqEn : (s.receiveNow).irqEn = s.irqEn := rfl
@[simp] theorem receiveNow_chk : (s.receiveNow).chk = s.chk := rfl
@[simp] theorem receiveNow_now : (s.receiveNow).now = s.now := rfl
@[simp] theorem receiveNow_nowHiSh : (s.receiveNow).nowHiSh = s.nowHiSh := rfl
@[simp] theorem receiveNow_lastScan : (s.receiveNow).lastScan = s.lastScan := rfl
@[simp] theorem receiveNow_lastHiSh : (s.receiveNow).lastHiSh = s.lastHiSh := rfl
@[simp] theorem receiveNow_maxRetries : (s.receiveNow).maxRetries = s.maxRetries := rfl
@[simp] theorem receiveNow_minScanDelay : (s.receiveNow).minScanDelay = s.minScanDelay := rfl
@[simp] theorem receiveNow_scanCount : (s.receiveNow).scanCount = s.scanCount := rfl
@[simp] theorem receiveNow_remaining : (s.receiveNow).remaining = s.remaining := rfl
@[simp] theorem receiveNow_numAddr : (s.receiveNow).numAddr = s.numAddr := rfl
@[simp] theorem receiveNow_cmdLen0 : (s.receiveNow).cmdLen0 = s.cmdLen0 := rfl
@[simp] theorem receiveNow_cmdLen1 : (s.receiveNow).cmdLen1 = s.cmdLen1 := rfl
@[simp] theorem receiveNow_txLen : (s.receiveNow).txLen = s.txLen := rfl
@[simp] theorem receiveNow_rxLen : (s.receiveNow).rxLen = s.rxLen := rfl
@[simp] theorem receiveNow_respStatus : (s.receiveNow).respStatus = s.respStatus := rfl
@[simp] theorem receiveNow_resultLen : (s.receiveNow).resultLen = s.resultLen := rfl
@[simp] theorem receiveNow_fresh : (s.receiveNow).fresh = s.fresh := rfl
@[simp] theorem receiveNow_recSlot : (s.receiveNow).recSlot = s.recSlot := rfl
@[simp] theorem receiveNow_recNext : (s.receiveNow).recNext = s.recNext := rfl
@[simp] theorem receiveNow_lastFail : (s.receiveNow).lastFail = s.lastFail := rfl
@[simp] theorem receiveNow_accessErr : (s.receiveNow).accessErr = s.accessErr := rfl
@[simp] theorem receiveNow_evtFifo : (s.receiveNow).evtFifo = s.evtFifo := rfl
@[simp] theorem receiveNow_logOvf : (s.receiveNow).logOvf = s.logOvf := rfl
@[simp] theorem receiveNow_slots : (s.receiveNow).slots = s.slots := rfl
@[simp] theorem receiveNow_mem : (s.receiveNow).mem = s.mem := rfl
@[simp] theorem receiveNow_epoch : (s.receiveNow).epoch = s.epoch := rfl
@[simp] theorem receiveNow_tpSeq : (s.receiveNow).tpSeq = s.tpSeq + 1 := rfl
@[simp] theorem receiveNow_tpLog : (s.receiveNow).tpLog = s.recvReq :: s.tpLog := rfl
@[simp] theorem receiveNow_inputs : (s.receiveNow).inputs = s.inputs := rfl
@[simp] theorem receiveNow_defer : (s.receiveNow).defer = s.defer := rfl
@[simp] theorem receiveNow_hostData : (s.receiveNow).hostData = s.hostData := rfl

/-! ### loadFrame -/

@[simp] theorem loadFrame_params (f : List Byte) : (s.loadFrame f).params = s.params := rfl
@[simp] theorem loadFrame_eng (f : List Byte) : (s.loadFrame f).eng = s.eng := rfl
@[simp] theorem loadFrame_cont (f : List Byte) : (s.loadFrame f).cont = s.cont := rfl
@[simp] theorem loadFrame_resume (f : List Byte) : (s.loadFrame f).resume = s.resume := rfl
@[simp] theorem loadFrame_sleepUntil (f : List Byte) :
    (s.loadFrame f).sleepUntil = s.sleepUntil := rfl
@[simp] theorem loadFrame_tpReq (f : List Byte) : (s.loadFrame f).tpReq = s.tpReq := rfl
@[simp] theorem loadFrame_rxDeadline (f : List Byte) :
    (s.loadFrame f).rxDeadline = s.rxDeadline := rfl
@[simp] theorem loadFrame_tpOpen (f : List Byte) : (s.loadFrame f).tpOpen = s.tpOpen := rfl
@[simp] theorem loadFrame_txValid (f : List Byte) : (s.loadFrame f).txValid = true := rfl
@[simp] theorem loadFrame_recPend (f : List Byte) : (s.loadFrame f).recPend = s.recPend := rfl
@[simp] theorem loadFrame_lastValid (f : List Byte) : (s.loadFrame f).lastValid = s.lastValid := rfl
@[simp] theorem loadFrame_unbounded (f : List Byte) : (s.loadFrame f).unbounded = s.unbounded := rfl
@[simp] theorem loadFrame_rstate (f : List Byte) : (s.loadFrame f).rstate = s.rstate := rfl
@[simp] theorem loadFrame_sstate (f : List Byte) : (s.loadFrame f).sstate = s.sstate := rfl
@[simp] theorem loadFrame_curSlot (f : List Byte) : (s.loadFrame f).curSlot = s.curSlot := rfl
@[simp] theorem loadFrame_attempts (f : List Byte) : (s.loadFrame f).attempts = s.attempts := rfl
@[simp] theorem loadFrame_err (f : List Byte) : (s.loadFrame f).err = s.err := rfl
@[simp] theorem loadFrame_rej (f : List Byte) : (s.loadFrame f).rej = s.rej := rfl
@[simp] theorem loadFrame_irqPend (f : List Byte) : (s.loadFrame f).irqPend = s.irqPend := rfl
@[simp] theorem loadFrame_irqEn (f : List Byte) : (s.loadFrame f).irqEn = s.irqEn := rfl
@[simp] theorem loadFrame_chk (f : List Byte) :
    (s.loadFrame f).chk = { s.chk with calcd := lastByte f } := rfl
@[simp] theorem loadFrame_now (f : List Byte) : (s.loadFrame f).now = s.now := rfl
@[simp] theorem loadFrame_nowHiSh (f : List Byte) : (s.loadFrame f).nowHiSh = s.nowHiSh := rfl
@[simp] theorem loadFrame_lastScan (f : List Byte) : (s.loadFrame f).lastScan = s.lastScan := rfl
@[simp] theorem loadFrame_lastHiSh (f : List Byte) : (s.loadFrame f).lastHiSh = s.lastHiSh := rfl
@[simp] theorem loadFrame_maxRetries (f : List Byte) :
    (s.loadFrame f).maxRetries = s.maxRetries := rfl
@[simp] theorem loadFrame_minScanDelay (f : List Byte) :
    (s.loadFrame f).minScanDelay = s.minScanDelay := rfl
@[simp] theorem loadFrame_scanCount (f : List Byte) : (s.loadFrame f).scanCount = s.scanCount := rfl
@[simp] theorem loadFrame_remaining (f : List Byte) : (s.loadFrame f).remaining = s.remaining := rfl
@[simp] theorem loadFrame_numAddr (f : List Byte) : (s.loadFrame f).numAddr = s.numAddr := rfl
@[simp] theorem loadFrame_cmdLen0 (f : List Byte) : (s.loadFrame f).cmdLen0 = s.cmdLen0 := rfl
@[simp] theorem loadFrame_cmdLen1 (f : List Byte) : (s.loadFrame f).cmdLen1 = s.cmdLen1 := rfl
@[simp] theorem loadFrame_txLen (f : List Byte) :
    (s.loadFrame f).txLen = BitVec.ofNat 16 f.length := rfl
@[simp] theorem loadFrame_rxLen (f : List Byte) : (s.loadFrame f).rxLen = s.rxLen := rfl
@[simp] theorem loadFrame_respStatus (f : List Byte) :
    (s.loadFrame f).respStatus = s.respStatus := rfl
@[simp] theorem loadFrame_resultLen (f : List Byte) : (s.loadFrame f).resultLen = s.resultLen := rfl
@[simp] theorem loadFrame_fresh (f : List Byte) : (s.loadFrame f).fresh = s.fresh := rfl
@[simp] theorem loadFrame_recSlot (f : List Byte) : (s.loadFrame f).recSlot = s.recSlot := rfl
@[simp] theorem loadFrame_recNext (f : List Byte) : (s.loadFrame f).recNext = s.recNext := rfl
@[simp] theorem loadFrame_lastFail (f : List Byte) : (s.loadFrame f).lastFail = s.lastFail := rfl
@[simp] theorem loadFrame_accessErr (f : List Byte) : (s.loadFrame f).accessErr = s.accessErr := rfl
@[simp] theorem loadFrame_evtFifo (f : List Byte) : (s.loadFrame f).evtFifo = s.evtFifo := rfl
@[simp] theorem loadFrame_logOvf (f : List Byte) : (s.loadFrame f).logOvf = s.logOvf := rfl
@[simp] theorem loadFrame_slots (f : List Byte) : (s.loadFrame f).slots = s.slots := rfl
@[simp] theorem loadFrame_mem (f : List Byte) :
    (s.loadFrame f).mem = Memory.setBytes s.mem txBase f := rfl
@[simp] theorem loadFrame_epoch (f : List Byte) : (s.loadFrame f).epoch = s.epoch := rfl
@[simp] theorem loadFrame_tpSeq (f : List Byte) : (s.loadFrame f).tpSeq = s.tpSeq := rfl
@[simp] theorem loadFrame_tpLog (f : List Byte) : (s.loadFrame f).tpLog = s.tpLog := rfl
@[simp] theorem loadFrame_inputs (f : List Byte) : (s.loadFrame f).inputs = s.inputs := rfl
@[simp] theorem loadFrame_defer (f : List Byte) : (s.loadFrame f).defer = s.defer := rfl
@[simp] theorem loadFrame_hostData (f : List Byte) : (s.loadFrame f).hostData = s.hostData := rfl

/-! ### dropFrame -/

@[simp] theorem dropFrame_params : (s.dropFrame).params = s.params := rfl
@[simp] theorem dropFrame_eng : (s.dropFrame).eng = s.eng := rfl
@[simp] theorem dropFrame_cont : (s.dropFrame).cont = s.cont := rfl
@[simp] theorem dropFrame_resume : (s.dropFrame).resume = s.resume := rfl
@[simp] theorem dropFrame_sleepUntil : (s.dropFrame).sleepUntil = s.sleepUntil := rfl
@[simp] theorem dropFrame_tpReq : (s.dropFrame).tpReq = s.tpReq := rfl
@[simp] theorem dropFrame_rxDeadline : (s.dropFrame).rxDeadline = s.rxDeadline := rfl
@[simp] theorem dropFrame_tpOpen : (s.dropFrame).tpOpen = s.tpOpen := rfl
@[simp] theorem dropFrame_txValid : (s.dropFrame).txValid = false := rfl
@[simp] theorem dropFrame_recPend : (s.dropFrame).recPend = s.recPend := rfl
@[simp] theorem dropFrame_lastValid : (s.dropFrame).lastValid = s.lastValid := rfl
@[simp] theorem dropFrame_unbounded : (s.dropFrame).unbounded = s.unbounded := rfl
@[simp] theorem dropFrame_rstate : (s.dropFrame).rstate = s.rstate := rfl
@[simp] theorem dropFrame_sstate : (s.dropFrame).sstate = s.sstate := rfl
@[simp] theorem dropFrame_curSlot : (s.dropFrame).curSlot = s.curSlot := rfl
@[simp] theorem dropFrame_attempts : (s.dropFrame).attempts = s.attempts := rfl
@[simp] theorem dropFrame_err : (s.dropFrame).err = s.err := rfl
@[simp] theorem dropFrame_rej : (s.dropFrame).rej = s.rej := rfl
@[simp] theorem dropFrame_irqPend : (s.dropFrame).irqPend = s.irqPend := rfl
@[simp] theorem dropFrame_irqEn : (s.dropFrame).irqEn = s.irqEn := rfl
@[simp] theorem dropFrame_chk : (s.dropFrame).chk = s.chk := rfl
@[simp] theorem dropFrame_now : (s.dropFrame).now = s.now := rfl
@[simp] theorem dropFrame_nowHiSh : (s.dropFrame).nowHiSh = s.nowHiSh := rfl
@[simp] theorem dropFrame_lastScan : (s.dropFrame).lastScan = s.lastScan := rfl
@[simp] theorem dropFrame_lastHiSh : (s.dropFrame).lastHiSh = s.lastHiSh := rfl
@[simp] theorem dropFrame_maxRetries : (s.dropFrame).maxRetries = s.maxRetries := rfl
@[simp] theorem dropFrame_minScanDelay : (s.dropFrame).minScanDelay = s.minScanDelay := rfl
@[simp] theorem dropFrame_scanCount : (s.dropFrame).scanCount = s.scanCount := rfl
@[simp] theorem dropFrame_remaining : (s.dropFrame).remaining = s.remaining := rfl
@[simp] theorem dropFrame_numAddr : (s.dropFrame).numAddr = s.numAddr := rfl
@[simp] theorem dropFrame_cmdLen0 : (s.dropFrame).cmdLen0 = s.cmdLen0 := rfl
@[simp] theorem dropFrame_cmdLen1 : (s.dropFrame).cmdLen1 = s.cmdLen1 := rfl
@[simp] theorem dropFrame_txLen : (s.dropFrame).txLen = 0 := rfl
@[simp] theorem dropFrame_rxLen : (s.dropFrame).rxLen = s.rxLen := rfl
@[simp] theorem dropFrame_respStatus : (s.dropFrame).respStatus = s.respStatus := rfl
@[simp] theorem dropFrame_resultLen : (s.dropFrame).resultLen = s.resultLen := rfl
@[simp] theorem dropFrame_fresh : (s.dropFrame).fresh = s.fresh := rfl
@[simp] theorem dropFrame_recSlot : (s.dropFrame).recSlot = s.recSlot := rfl
@[simp] theorem dropFrame_recNext : (s.dropFrame).recNext = s.recNext := rfl
@[simp] theorem dropFrame_lastFail : (s.dropFrame).lastFail = s.lastFail := rfl
@[simp] theorem dropFrame_accessErr : (s.dropFrame).accessErr = s.accessErr := rfl
@[simp] theorem dropFrame_evtFifo : (s.dropFrame).evtFifo = s.evtFifo := rfl
@[simp] theorem dropFrame_logOvf : (s.dropFrame).logOvf = s.logOvf := rfl
@[simp] theorem dropFrame_slots : (s.dropFrame).slots = s.slots := rfl
@[simp] theorem dropFrame_mem : (s.dropFrame).mem = s.mem := rfl
@[simp] theorem dropFrame_epoch : (s.dropFrame).epoch = s.epoch := rfl
@[simp] theorem dropFrame_tpSeq : (s.dropFrame).tpSeq = s.tpSeq := rfl
@[simp] theorem dropFrame_tpLog : (s.dropFrame).tpLog = s.tpLog := rfl
@[simp] theorem dropFrame_inputs : (s.dropFrame).inputs = s.inputs := rfl
@[simp] theorem dropFrame_defer : (s.dropFrame).defer = s.defer := rfl
@[simp] theorem dropFrame_hostData : (s.dropFrame).hostData = s.hostData := rfl

/-! ### noteChk -/

@[simp] theorem noteChk_params (r : List Byte) : (s.noteChk r).params = s.params := rfl
@[simp] theorem noteChk_eng (r : List Byte) : (s.noteChk r).eng = s.eng := rfl
@[simp] theorem noteChk_cont (r : List Byte) : (s.noteChk r).cont = s.cont := rfl
@[simp] theorem noteChk_resume (r : List Byte) : (s.noteChk r).resume = s.resume := rfl
@[simp] theorem noteChk_sleepUntil (r : List Byte) : (s.noteChk r).sleepUntil = s.sleepUntil := rfl
@[simp] theorem noteChk_tpReq (r : List Byte) : (s.noteChk r).tpReq = s.tpReq := rfl
@[simp] theorem noteChk_rxDeadline (r : List Byte) : (s.noteChk r).rxDeadline = s.rxDeadline := rfl
@[simp] theorem noteChk_tpOpen (r : List Byte) : (s.noteChk r).tpOpen = s.tpOpen := rfl
@[simp] theorem noteChk_txValid (r : List Byte) : (s.noteChk r).txValid = s.txValid := rfl
@[simp] theorem noteChk_recPend (r : List Byte) : (s.noteChk r).recPend = s.recPend := rfl
@[simp] theorem noteChk_lastValid (r : List Byte) : (s.noteChk r).lastValid = s.lastValid := rfl
@[simp] theorem noteChk_unbounded (r : List Byte) : (s.noteChk r).unbounded = s.unbounded := rfl
@[simp] theorem noteChk_rstate (r : List Byte) : (s.noteChk r).rstate = s.rstate := rfl
@[simp] theorem noteChk_sstate (r : List Byte) : (s.noteChk r).sstate = s.sstate := rfl
@[simp] theorem noteChk_curSlot (r : List Byte) : (s.noteChk r).curSlot = s.curSlot := rfl
@[simp] theorem noteChk_attempts (r : List Byte) : (s.noteChk r).attempts = s.attempts := rfl
@[simp] theorem noteChk_err (r : List Byte) : (s.noteChk r).err = s.err := rfl
@[simp] theorem noteChk_rej (r : List Byte) : (s.noteChk r).rej = s.rej := rfl
@[simp] theorem noteChk_irqPend (r : List Byte) : (s.noteChk r).irqPend = s.irqPend := rfl
@[simp] theorem noteChk_irqEn (r : List Byte) : (s.noteChk r).irqEn = s.irqEn := rfl
@[simp] theorem noteChk_chk (r : List Byte) :
    (s.noteChk r).chk = if r = [] then s.chk else ⟨bodyXor r, lastByte r⟩ := rfl
@[simp] theorem noteChk_now (r : List Byte) : (s.noteChk r).now = s.now := rfl
@[simp] theorem noteChk_nowHiSh (r : List Byte) : (s.noteChk r).nowHiSh = s.nowHiSh := rfl
@[simp] theorem noteChk_lastScan (r : List Byte) : (s.noteChk r).lastScan = s.lastScan := rfl
@[simp] theorem noteChk_lastHiSh (r : List Byte) : (s.noteChk r).lastHiSh = s.lastHiSh := rfl
@[simp] theorem noteChk_maxRetries (r : List Byte) : (s.noteChk r).maxRetries = s.maxRetries := rfl
@[simp] theorem noteChk_minScanDelay (r : List Byte) :
    (s.noteChk r).minScanDelay = s.minScanDelay := rfl
@[simp] theorem noteChk_scanCount (r : List Byte) : (s.noteChk r).scanCount = s.scanCount := rfl
@[simp] theorem noteChk_remaining (r : List Byte) : (s.noteChk r).remaining = s.remaining := rfl
@[simp] theorem noteChk_numAddr (r : List Byte) : (s.noteChk r).numAddr = s.numAddr := rfl
@[simp] theorem noteChk_cmdLen0 (r : List Byte) : (s.noteChk r).cmdLen0 = s.cmdLen0 := rfl
@[simp] theorem noteChk_cmdLen1 (r : List Byte) : (s.noteChk r).cmdLen1 = s.cmdLen1 := rfl
@[simp] theorem noteChk_txLen (r : List Byte) : (s.noteChk r).txLen = s.txLen := rfl
@[simp] theorem noteChk_rxLen (r : List Byte) : (s.noteChk r).rxLen = s.rxLen := rfl
@[simp] theorem noteChk_respStatus (r : List Byte) : (s.noteChk r).respStatus = s.respStatus := rfl
@[simp] theorem noteChk_resultLen (r : List Byte) : (s.noteChk r).resultLen = s.resultLen := rfl
@[simp] theorem noteChk_fresh (r : List Byte) : (s.noteChk r).fresh = s.fresh := rfl
@[simp] theorem noteChk_recSlot (r : List Byte) : (s.noteChk r).recSlot = s.recSlot := rfl
@[simp] theorem noteChk_recNext (r : List Byte) : (s.noteChk r).recNext = s.recNext := rfl
@[simp] theorem noteChk_lastFail (r : List Byte) : (s.noteChk r).lastFail = s.lastFail := rfl
@[simp] theorem noteChk_accessErr (r : List Byte) : (s.noteChk r).accessErr = s.accessErr := rfl
@[simp] theorem noteChk_evtFifo (r : List Byte) : (s.noteChk r).evtFifo = s.evtFifo := rfl
@[simp] theorem noteChk_logOvf (r : List Byte) : (s.noteChk r).logOvf = s.logOvf := rfl
@[simp] theorem noteChk_slots (r : List Byte) : (s.noteChk r).slots = s.slots := rfl
@[simp] theorem noteChk_mem (r : List Byte) : (s.noteChk r).mem = s.mem := rfl
@[simp] theorem noteChk_epoch (r : List Byte) : (s.noteChk r).epoch = s.epoch := rfl
@[simp] theorem noteChk_tpSeq (r : List Byte) : (s.noteChk r).tpSeq = s.tpSeq := rfl
@[simp] theorem noteChk_tpLog (r : List Byte) : (s.noteChk r).tpLog = s.tpLog := rfl
@[simp] theorem noteChk_inputs (r : List Byte) : (s.noteChk r).inputs = s.inputs := rfl
@[simp] theorem noteChk_defer (r : List Byte) : (s.noteChk r).defer = s.defer := rfl
@[simp] theorem noteChk_hostData (r : List Byte) : (s.noteChk r).hostData = s.hostData := rfl

/-! ### storeResult -/

@[simp] theorem storeResult_params (st : Byte) (p : List Byte) :
    (s.storeResult st p).params = s.params := rfl
@[simp] theorem storeResult_eng (st : Byte) (p : List Byte) :
    (s.storeResult st p).eng = s.eng := rfl
@[simp] theorem storeResult_cont (st : Byte) (p : List Byte) :
    (s.storeResult st p).cont = s.cont := rfl
@[simp] theorem storeResult_resume (st : Byte) (p : List Byte) :
    (s.storeResult st p).resume = s.resume := rfl
@[simp] theorem storeResult_sleepUntil (st : Byte) (p : List Byte) :
    (s.storeResult st p).sleepUntil = s.sleepUntil := rfl
@[simp] theorem storeResult_tpReq (st : Byte) (p : List Byte) :
    (s.storeResult st p).tpReq = s.tpReq := rfl
@[simp] theorem storeResult_rxDeadline (st : Byte) (p : List Byte) :
    (s.storeResult st p).rxDeadline = s.rxDeadline := rfl
@[simp] theorem storeResult_tpOpen (st : Byte) (p : List Byte) :
    (s.storeResult st p).tpOpen = s.tpOpen := rfl
@[simp] theorem storeResult_txValid (st : Byte) (p : List Byte) :
    (s.storeResult st p).txValid = s.txValid := rfl
@[simp] theorem storeResult_recPend (st : Byte) (p : List Byte) :
    (s.storeResult st p).recPend = s.recPend := rfl
@[simp] theorem storeResult_lastValid (st : Byte) (p : List Byte) :
    (s.storeResult st p).lastValid = s.lastValid := rfl
@[simp] theorem storeResult_unbounded (st : Byte) (p : List Byte) :
    (s.storeResult st p).unbounded = s.unbounded := rfl
@[simp] theorem storeResult_rstate (st : Byte) (p : List Byte) :
    (s.storeResult st p).rstate = s.rstate := rfl
@[simp] theorem storeResult_sstate (st : Byte) (p : List Byte) :
    (s.storeResult st p).sstate = s.sstate := rfl
@[simp] theorem storeResult_curSlot (st : Byte) (p : List Byte) :
    (s.storeResult st p).curSlot = s.curSlot := rfl
@[simp] theorem storeResult_attempts (st : Byte) (p : List Byte) :
    (s.storeResult st p).attempts = s.attempts := rfl
@[simp] theorem storeResult_err (st : Byte) (p : List Byte) :
    (s.storeResult st p).err = s.err := rfl
@[simp] theorem storeResult_rej (st : Byte) (p : List Byte) :
    (s.storeResult st p).rej = s.rej := rfl
@[simp] theorem storeResult_irqPend (st : Byte) (p : List Byte) :
    (s.storeResult st p).irqPend = s.irqPend := rfl
@[simp] theorem storeResult_irqEn (st : Byte) (p : List Byte) :
    (s.storeResult st p).irqEn = s.irqEn := rfl
@[simp] theorem storeResult_chk (st : Byte) (p : List Byte) :
    (s.storeResult st p).chk = s.chk := rfl
@[simp] theorem storeResult_now (st : Byte) (p : List Byte) :
    (s.storeResult st p).now = s.now := rfl
@[simp] theorem storeResult_nowHiSh (st : Byte) (p : List Byte) :
    (s.storeResult st p).nowHiSh = s.nowHiSh := rfl
@[simp] theorem storeResult_lastScan (st : Byte) (p : List Byte) :
    (s.storeResult st p).lastScan = s.lastScan := rfl
@[simp] theorem storeResult_lastHiSh (st : Byte) (p : List Byte) :
    (s.storeResult st p).lastHiSh = s.lastHiSh := rfl
@[simp] theorem storeResult_maxRetries (st : Byte) (p : List Byte) :
    (s.storeResult st p).maxRetries = s.maxRetries := rfl
@[simp] theorem storeResult_minScanDelay (st : Byte) (p : List Byte) :
    (s.storeResult st p).minScanDelay = s.minScanDelay := rfl
@[simp] theorem storeResult_scanCount (st : Byte) (p : List Byte) :
    (s.storeResult st p).scanCount = s.scanCount := rfl
@[simp] theorem storeResult_remaining (st : Byte) (p : List Byte) :
    (s.storeResult st p).remaining = s.remaining := rfl
@[simp] theorem storeResult_numAddr (st : Byte) (p : List Byte) :
    (s.storeResult st p).numAddr = s.numAddr := rfl
@[simp] theorem storeResult_cmdLen0 (st : Byte) (p : List Byte) :
    (s.storeResult st p).cmdLen0 = s.cmdLen0 := rfl
@[simp] theorem storeResult_cmdLen1 (st : Byte) (p : List Byte) :
    (s.storeResult st p).cmdLen1 = s.cmdLen1 := rfl
@[simp] theorem storeResult_txLen (st : Byte) (p : List Byte) :
    (s.storeResult st p).txLen = s.txLen := rfl
@[simp] theorem storeResult_rxLen (st : Byte) (p : List Byte) :
    (s.storeResult st p).rxLen = s.rxLen := rfl
@[simp] theorem storeResult_respStatus (st : Byte) (p : List Byte) :
    (s.storeResult st p).respStatus = st := rfl
@[simp] theorem storeResult_resultLen (st : Byte) (p : List Byte) :
    (s.storeResult st p).resultLen = BitVec.ofNat 8 p.length := rfl
@[simp] theorem storeResult_fresh (st : Byte) (p : List Byte) :
    (s.storeResult st p).fresh = s.fresh := rfl
@[simp] theorem storeResult_recSlot (st : Byte) (p : List Byte) :
    (s.storeResult st p).recSlot = s.recSlot := rfl
@[simp] theorem storeResult_recNext (st : Byte) (p : List Byte) :
    (s.storeResult st p).recNext = s.recNext := rfl
@[simp] theorem storeResult_lastFail (st : Byte) (p : List Byte) :
    (s.storeResult st p).lastFail = s.lastFail := rfl
@[simp] theorem storeResult_accessErr (st : Byte) (p : List Byte) :
    (s.storeResult st p).accessErr = s.accessErr := rfl
@[simp] theorem storeResult_evtFifo (st : Byte) (p : List Byte) :
    (s.storeResult st p).evtFifo = s.evtFifo := rfl
@[simp] theorem storeResult_logOvf (st : Byte) (p : List Byte) :
    (s.storeResult st p).logOvf = s.logOvf := rfl
@[simp] theorem storeResult_slots (st : Byte) (p : List Byte) :
    (s.storeResult st p).slots = s.slots := rfl
@[simp] theorem storeResult_mem (st : Byte) (p : List Byte) :
    (s.storeResult st p).mem = Memory.setBytes s.mem resultBase p := rfl
@[simp] theorem storeResult_epoch (st : Byte) (p : List Byte) :
    (s.storeResult st p).epoch = s.epoch := rfl
@[simp] theorem storeResult_tpSeq (st : Byte) (p : List Byte) :
    (s.storeResult st p).tpSeq = s.tpSeq := rfl
@[simp] theorem storeResult_tpLog (st : Byte) (p : List Byte) :
    (s.storeResult st p).tpLog = s.tpLog := rfl
@[simp] theorem storeResult_inputs (st : Byte) (p : List Byte) :
    (s.storeResult st p).inputs = s.inputs := rfl
@[simp] theorem storeResult_defer (st : Byte) (p : List Byte) :
    (s.storeResult st p).defer = s.defer := rfl
@[simp] theorem storeResult_hostData (st : Byte) (p : List Byte) :
    (s.storeResult st p).hostData = s.hostData := rfl

/-! ### takeRx -/

@[simp] theorem takeRx_params (r : Option (List Byte)) :
    (s.takeRx r).params = s.params := by cases r <;> rfl
@[simp] theorem takeRx_eng (r : Option (List Byte)) : (s.takeRx r).eng = s.eng := by cases r <;> rfl
@[simp] theorem takeRx_cont (r : Option (List Byte)) :
    (s.takeRx r).cont = s.cont := by cases r <;> rfl
@[simp] theorem takeRx_resume (r : Option (List Byte)) :
    (s.takeRx r).resume = s.resume := by cases r <;> rfl
@[simp] theorem takeRx_sleepUntil (r : Option (List Byte)) :
    (s.takeRx r).sleepUntil = s.sleepUntil := by cases r <;> rfl
@[simp] theorem takeRx_tpReq (r : Option (List Byte)) :
    (s.takeRx r).tpReq = s.tpReq := by cases r <;> rfl
@[simp] theorem takeRx_rxDeadline (r : Option (List Byte)) :
    (s.takeRx r).rxDeadline = s.rxDeadline := by cases r <;> rfl
@[simp] theorem takeRx_tpOpen (r : Option (List Byte)) :
    (s.takeRx r).tpOpen = s.tpOpen := by cases r <;> rfl
@[simp] theorem takeRx_txValid (r : Option (List Byte)) :
    (s.takeRx r).txValid = s.txValid := by cases r <;> rfl
@[simp] theorem takeRx_recPend (r : Option (List Byte)) :
    (s.takeRx r).recPend = s.recPend := by cases r <;> rfl
@[simp] theorem takeRx_lastValid (r : Option (List Byte)) :
    (s.takeRx r).lastValid = s.lastValid := by cases r <;> rfl
@[simp] theorem takeRx_unbounded (r : Option (List Byte)) :
    (s.takeRx r).unbounded = s.unbounded := by cases r <;> rfl
@[simp] theorem takeRx_rstate (r : Option (List Byte)) :
    (s.takeRx r).rstate = s.rstate := by cases r <;> rfl
@[simp] theorem takeRx_sstate (r : Option (List Byte)) :
    (s.takeRx r).sstate = s.sstate := by cases r <;> rfl
@[simp] theorem takeRx_curSlot (r : Option (List Byte)) :
    (s.takeRx r).curSlot = s.curSlot := by cases r <;> rfl
@[simp] theorem takeRx_attempts (r : Option (List Byte)) :
    (s.takeRx r).attempts = s.attempts := by cases r <;> rfl
@[simp] theorem takeRx_err (r : Option (List Byte)) : (s.takeRx r).err = s.err := by cases r <;> rfl
@[simp] theorem takeRx_rej (r : Option (List Byte)) : (s.takeRx r).rej = s.rej := by cases r <;> rfl
@[simp] theorem takeRx_irqPend (r : Option (List Byte)) :
    (s.takeRx r).irqPend = s.irqPend := by cases r <;> rfl
@[simp] theorem takeRx_irqEn (r : Option (List Byte)) :
    (s.takeRx r).irqEn = s.irqEn := by cases r <;> rfl
@[simp] theorem takeRx_chk (r : Option (List Byte)) : (s.takeRx r).chk = s.chk := by cases r <;> rfl
@[simp] theorem takeRx_now (r : Option (List Byte)) : (s.takeRx r).now = s.now := by cases r <;> rfl
@[simp] theorem takeRx_nowHiSh (r : Option (List Byte)) :
    (s.takeRx r).nowHiSh = s.nowHiSh := by cases r <;> rfl
@[simp] theorem takeRx_lastScan (r : Option (List Byte)) :
    (s.takeRx r).lastScan = s.lastScan := by cases r <;> rfl
@[simp] theorem takeRx_lastHiSh (r : Option (List Byte)) :
    (s.takeRx r).lastHiSh = s.lastHiSh := by cases r <;> rfl
@[simp] theorem takeRx_maxRetries (r : Option (List Byte)) :
    (s.takeRx r).maxRetries = s.maxRetries := by cases r <;> rfl
@[simp] theorem takeRx_minScanDelay (r : Option (List Byte)) :
    (s.takeRx r).minScanDelay = s.minScanDelay := by cases r <;> rfl
@[simp] theorem takeRx_scanCount (r : Option (List Byte)) :
    (s.takeRx r).scanCount = s.scanCount := by cases r <;> rfl
@[simp] theorem takeRx_remaining (r : Option (List Byte)) :
    (s.takeRx r).remaining = s.remaining := by cases r <;> rfl
@[simp] theorem takeRx_numAddr (r : Option (List Byte)) :
    (s.takeRx r).numAddr = s.numAddr := by cases r <;> rfl
@[simp] theorem takeRx_cmdLen0 (r : Option (List Byte)) :
    (s.takeRx r).cmdLen0 = s.cmdLen0 := by cases r <;> rfl
@[simp] theorem takeRx_cmdLen1 (r : Option (List Byte)) :
    (s.takeRx r).cmdLen1 = s.cmdLen1 := by cases r <;> rfl
@[simp] theorem takeRx_txLen (r : Option (List Byte)) :
    (s.takeRx r).txLen = s.txLen := by cases r <;> rfl
@[simp] theorem takeRx_respStatus (r : Option (List Byte)) :
    (s.takeRx r).respStatus = s.respStatus := by cases r <;> rfl
@[simp] theorem takeRx_resultLen (r : Option (List Byte)) :
    (s.takeRx r).resultLen = s.resultLen := by cases r <;> rfl
@[simp] theorem takeRx_fresh (r : Option (List Byte)) :
    (s.takeRx r).fresh = s.fresh := by cases r <;> rfl
@[simp] theorem takeRx_recSlot (r : Option (List Byte)) :
    (s.takeRx r).recSlot = s.recSlot := by cases r <;> rfl
@[simp] theorem takeRx_recNext (r : Option (List Byte)) :
    (s.takeRx r).recNext = s.recNext := by cases r <;> rfl
@[simp] theorem takeRx_lastFail (r : Option (List Byte)) :
    (s.takeRx r).lastFail = s.lastFail := by cases r <;> rfl
@[simp] theorem takeRx_accessErr (r : Option (List Byte)) :
    (s.takeRx r).accessErr = s.accessErr := by cases r <;> rfl
@[simp] theorem takeRx_evtFifo (r : Option (List Byte)) :
    (s.takeRx r).evtFifo = s.evtFifo := by cases r <;> rfl
@[simp] theorem takeRx_logOvf (r : Option (List Byte)) :
    (s.takeRx r).logOvf = s.logOvf := by cases r <;> rfl
@[simp] theorem takeRx_slots (r : Option (List Byte)) :
    (s.takeRx r).slots = s.slots := by cases r <;> rfl
@[simp] theorem takeRx_epoch (r : Option (List Byte)) :
    (s.takeRx r).epoch = s.epoch := by cases r <;> rfl
@[simp] theorem takeRx_tpSeq (r : Option (List Byte)) :
    (s.takeRx r).tpSeq = s.tpSeq := by cases r <;> rfl
@[simp] theorem takeRx_tpLog (r : Option (List Byte)) :
    (s.takeRx r).tpLog = s.tpLog := by cases r <;> rfl
@[simp] theorem takeRx_inputs (r : Option (List Byte)) :
    (s.takeRx r).inputs = s.inputs := by cases r <;> rfl
@[simp] theorem takeRx_defer (r : Option (List Byte)) :
    (s.takeRx r).defer = s.defer := by cases r <;> rfl
@[simp] theorem takeRx_hostData (r : Option (List Byte)) :
    (s.takeRx r).hostData = s.hostData := by cases r <;> rfl

/-! ### keepRetry -/

@[simp] theorem keepRetry_params (k : Kind) (sl : SlotId) :
    (s.keepRetry k sl).params = s.params := by cases k <;> rfl
@[simp] theorem keepRetry_eng (k : Kind) (sl : SlotId) :
    (s.keepRetry k sl).eng = s.eng := by cases k <;> rfl
@[simp] theorem keepRetry_cont (k : Kind) (sl : SlotId) :
    (s.keepRetry k sl).cont = s.cont := by cases k <;> rfl
@[simp] theorem keepRetry_resume (k : Kind) (sl : SlotId) :
    (s.keepRetry k sl).resume = s.resume := by cases k <;> rfl
@[simp] theorem keepRetry_sleepUntil (k : Kind) (sl : SlotId) :
    (s.keepRetry k sl).sleepUntil = s.sleepUntil := by cases k <;> rfl
@[simp] theorem keepRetry_tpReq (k : Kind) (sl : SlotId) :
    (s.keepRetry k sl).tpReq = s.tpReq := by cases k <;> rfl
@[simp] theorem keepRetry_rxDeadline (k : Kind) (sl : SlotId) :
    (s.keepRetry k sl).rxDeadline = s.rxDeadline := by cases k <;> rfl
@[simp] theorem keepRetry_tpOpen (k : Kind) (sl : SlotId) :
    (s.keepRetry k sl).tpOpen = s.tpOpen := by cases k <;> rfl
@[simp] theorem keepRetry_txValid (k : Kind) (sl : SlotId) :
    (s.keepRetry k sl).txValid = s.txValid := by cases k <;> rfl
@[simp] theorem keepRetry_recPend (k : Kind) (sl : SlotId) :
    (s.keepRetry k sl).recPend = s.recPend := by cases k <;> rfl
@[simp] theorem keepRetry_lastValid (k : Kind) (sl : SlotId) :
    (s.keepRetry k sl).lastValid = s.lastValid := by cases k <;> rfl
@[simp] theorem keepRetry_unbounded (k : Kind) (sl : SlotId) :
    (s.keepRetry k sl).unbounded = s.unbounded := by cases k <;> rfl
@[simp] theorem keepRetry_rstate (k : Kind) (sl : SlotId) :
    (s.keepRetry k sl).rstate = s.rstate := by cases k <;> rfl
@[simp] theorem keepRetry_sstate (k : Kind) (sl : SlotId) :
    (s.keepRetry k sl).sstate = s.sstate := by cases k <;> rfl
@[simp] theorem keepRetry_curSlot (k : Kind) (sl : SlotId) :
    (s.keepRetry k sl).curSlot = s.curSlot := by cases k <;> rfl
@[simp] theorem keepRetry_attempts (k : Kind) (sl : SlotId) :
    (s.keepRetry k sl).attempts = s.attempts := by cases k <;> rfl
@[simp] theorem keepRetry_err (k : Kind) (sl : SlotId) :
    (s.keepRetry k sl).err = s.err := by cases k <;> rfl
@[simp] theorem keepRetry_rej (k : Kind) (sl : SlotId) :
    (s.keepRetry k sl).rej = s.rej := by cases k <;> rfl
@[simp] theorem keepRetry_irqPend (k : Kind) (sl : SlotId) :
    (s.keepRetry k sl).irqPend = s.irqPend := by cases k <;> rfl
@[simp] theorem keepRetry_irqEn (k : Kind) (sl : SlotId) :
    (s.keepRetry k sl).irqEn = s.irqEn := by cases k <;> rfl
@[simp] theorem keepRetry_chk (k : Kind) (sl : SlotId) :
    (s.keepRetry k sl).chk = s.chk := by cases k <;> rfl
@[simp] theorem keepRetry_now (k : Kind) (sl : SlotId) :
    (s.keepRetry k sl).now = s.now := by cases k <;> rfl
@[simp] theorem keepRetry_nowHiSh (k : Kind) (sl : SlotId) :
    (s.keepRetry k sl).nowHiSh = s.nowHiSh := by cases k <;> rfl
@[simp] theorem keepRetry_lastScan (k : Kind) (sl : SlotId) :
    (s.keepRetry k sl).lastScan = s.lastScan := by cases k <;> rfl
@[simp] theorem keepRetry_lastHiSh (k : Kind) (sl : SlotId) :
    (s.keepRetry k sl).lastHiSh = s.lastHiSh := by cases k <;> rfl
@[simp] theorem keepRetry_maxRetries (k : Kind) (sl : SlotId) :
    (s.keepRetry k sl).maxRetries = s.maxRetries := by cases k <;> rfl
@[simp] theorem keepRetry_minScanDelay (k : Kind) (sl : SlotId) :
    (s.keepRetry k sl).minScanDelay = s.minScanDelay := by cases k <;> rfl
@[simp] theorem keepRetry_scanCount (k : Kind) (sl : SlotId) :
    (s.keepRetry k sl).scanCount = s.scanCount := by cases k <;> rfl
@[simp] theorem keepRetry_remaining (k : Kind) (sl : SlotId) :
    (s.keepRetry k sl).remaining = s.remaining := by cases k <;> rfl
@[simp] theorem keepRetry_numAddr (k : Kind) (sl : SlotId) :
    (s.keepRetry k sl).numAddr = s.numAddr := by cases k <;> rfl
@[simp] theorem keepRetry_cmdLen0 (k : Kind) (sl : SlotId) :
    (s.keepRetry k sl).cmdLen0 = s.cmdLen0 := by cases k <;> rfl
@[simp] theorem keepRetry_cmdLen1 (k : Kind) (sl : SlotId) :
    (s.keepRetry k sl).cmdLen1 = s.cmdLen1 := by cases k <;> rfl
@[simp] theorem keepRetry_txLen (k : Kind) (sl : SlotId) :
    (s.keepRetry k sl).txLen = s.txLen := by cases k <;> rfl
@[simp] theorem keepRetry_rxLen (k : Kind) (sl : SlotId) :
    (s.keepRetry k sl).rxLen = s.rxLen := by cases k <;> rfl
@[simp] theorem keepRetry_respStatus (k : Kind) (sl : SlotId) :
    (s.keepRetry k sl).respStatus = s.respStatus := by cases k <;> rfl
@[simp] theorem keepRetry_resultLen (k : Kind) (sl : SlotId) :
    (s.keepRetry k sl).resultLen = s.resultLen := by cases k <;> rfl
@[simp] theorem keepRetry_fresh (k : Kind) (sl : SlotId) :
    (s.keepRetry k sl).fresh = s.fresh := by cases k <;> rfl
@[simp] theorem keepRetry_recSlot (k : Kind) (sl : SlotId) :
    (s.keepRetry k sl).recSlot = s.recSlot := by cases k <;> rfl
@[simp] theorem keepRetry_recNext (k : Kind) (sl : SlotId) :
    (s.keepRetry k sl).recNext = s.recNext := by cases k <;> rfl
@[simp] theorem keepRetry_lastFail (k : Kind) (sl : SlotId) :
    (s.keepRetry k sl).lastFail = s.lastFail := by cases k <;> rfl
@[simp] theorem keepRetry_accessErr (k : Kind) (sl : SlotId) :
    (s.keepRetry k sl).accessErr = s.accessErr := by cases k <;> rfl
@[simp] theorem keepRetry_evtFifo (k : Kind) (sl : SlotId) :
    (s.keepRetry k sl).evtFifo = s.evtFifo := by cases k <;> rfl
@[simp] theorem keepRetry_logOvf (k : Kind) (sl : SlotId) :
    (s.keepRetry k sl).logOvf = s.logOvf := by cases k <;> rfl
@[simp] theorem keepRetry_mem (k : Kind) (sl : SlotId) :
    (s.keepRetry k sl).mem = s.mem := by cases k <;> rfl
@[simp] theorem keepRetry_epoch (k : Kind) (sl : SlotId) :
    (s.keepRetry k sl).epoch = s.epoch := by cases k <;> rfl
@[simp] theorem keepRetry_tpSeq (k : Kind) (sl : SlotId) :
    (s.keepRetry k sl).tpSeq = s.tpSeq := by cases k <;> rfl
@[simp] theorem keepRetry_tpLog (k : Kind) (sl : SlotId) :
    (s.keepRetry k sl).tpLog = s.tpLog := by cases k <;> rfl
@[simp] theorem keepRetry_inputs (k : Kind) (sl : SlotId) :
    (s.keepRetry k sl).inputs = s.inputs := by cases k <;> rfl
@[simp] theorem keepRetry_defer (k : Kind) (sl : SlotId) :
    (s.keepRetry k sl).defer = s.defer := by cases k <;> rfl
@[simp] theorem keepRetry_hostData (k : Kind) (sl : SlotId) :
    (s.keepRetry k sl).hostData = s.hostData := by cases k <;> rfl

/-! ### storeSerial -/

@[simp] theorem storeSerial_params (sl : SlotId) (p : List Byte) :
    (s.storeSerial sl p).params = s.params := rfl
@[simp] theorem storeSerial_eng (sl : SlotId) (p : List Byte) :
    (s.storeSerial sl p).eng = s.eng := rfl
@[simp] theorem storeSerial_cont (sl : SlotId) (p : List Byte) :
    (s.storeSerial sl p).cont = s.cont := rfl
@[simp] theorem storeSerial_resume (sl : SlotId) (p : List Byte) :
    (s.storeSerial sl p).resume = s.resume := rfl
@[simp] theorem storeSerial_sleepUntil (sl : SlotId) (p : List Byte) :
    (s.storeSerial sl p).sleepUntil = s.sleepUntil := rfl
@[simp] theorem storeSerial_tpReq (sl : SlotId) (p : List Byte) :
    (s.storeSerial sl p).tpReq = s.tpReq := rfl
@[simp] theorem storeSerial_rxDeadline (sl : SlotId) (p : List Byte) :
    (s.storeSerial sl p).rxDeadline = s.rxDeadline := rfl
@[simp] theorem storeSerial_tpOpen (sl : SlotId) (p : List Byte) :
    (s.storeSerial sl p).tpOpen = s.tpOpen := rfl
@[simp] theorem storeSerial_txValid (sl : SlotId) (p : List Byte) :
    (s.storeSerial sl p).txValid = s.txValid := rfl
@[simp] theorem storeSerial_recPend (sl : SlotId) (p : List Byte) :
    (s.storeSerial sl p).recPend = s.recPend := rfl
@[simp] theorem storeSerial_lastValid (sl : SlotId) (p : List Byte) :
    (s.storeSerial sl p).lastValid = s.lastValid := rfl
@[simp] theorem storeSerial_unbounded (sl : SlotId) (p : List Byte) :
    (s.storeSerial sl p).unbounded = s.unbounded := rfl
@[simp] theorem storeSerial_rstate (sl : SlotId) (p : List Byte) :
    (s.storeSerial sl p).rstate = s.rstate := rfl
@[simp] theorem storeSerial_sstate (sl : SlotId) (p : List Byte) :
    (s.storeSerial sl p).sstate = s.sstate := rfl
@[simp] theorem storeSerial_curSlot (sl : SlotId) (p : List Byte) :
    (s.storeSerial sl p).curSlot = s.curSlot := rfl
@[simp] theorem storeSerial_attempts (sl : SlotId) (p : List Byte) :
    (s.storeSerial sl p).attempts = s.attempts := rfl
@[simp] theorem storeSerial_err (sl : SlotId) (p : List Byte) :
    (s.storeSerial sl p).err = s.err := rfl
@[simp] theorem storeSerial_rej (sl : SlotId) (p : List Byte) :
    (s.storeSerial sl p).rej = s.rej := rfl
@[simp] theorem storeSerial_irqPend (sl : SlotId) (p : List Byte) :
    (s.storeSerial sl p).irqPend = s.irqPend := rfl
@[simp] theorem storeSerial_irqEn (sl : SlotId) (p : List Byte) :
    (s.storeSerial sl p).irqEn = s.irqEn := rfl
@[simp] theorem storeSerial_chk (sl : SlotId) (p : List Byte) :
    (s.storeSerial sl p).chk = s.chk := rfl
@[simp] theorem storeSerial_now (sl : SlotId) (p : List Byte) :
    (s.storeSerial sl p).now = s.now := rfl
@[simp] theorem storeSerial_nowHiSh (sl : SlotId) (p : List Byte) :
    (s.storeSerial sl p).nowHiSh = s.nowHiSh := rfl
@[simp] theorem storeSerial_lastScan (sl : SlotId) (p : List Byte) :
    (s.storeSerial sl p).lastScan = s.lastScan := rfl
@[simp] theorem storeSerial_lastHiSh (sl : SlotId) (p : List Byte) :
    (s.storeSerial sl p).lastHiSh = s.lastHiSh := rfl
@[simp] theorem storeSerial_maxRetries (sl : SlotId) (p : List Byte) :
    (s.storeSerial sl p).maxRetries = s.maxRetries := rfl
@[simp] theorem storeSerial_minScanDelay (sl : SlotId) (p : List Byte) :
    (s.storeSerial sl p).minScanDelay = s.minScanDelay := rfl
@[simp] theorem storeSerial_scanCount (sl : SlotId) (p : List Byte) :
    (s.storeSerial sl p).scanCount = s.scanCount := rfl
@[simp] theorem storeSerial_remaining (sl : SlotId) (p : List Byte) :
    (s.storeSerial sl p).remaining = s.remaining := rfl
@[simp] theorem storeSerial_numAddr (sl : SlotId) (p : List Byte) :
    (s.storeSerial sl p).numAddr = s.numAddr := rfl
@[simp] theorem storeSerial_cmdLen0 (sl : SlotId) (p : List Byte) :
    (s.storeSerial sl p).cmdLen0 = s.cmdLen0 := rfl
@[simp] theorem storeSerial_cmdLen1 (sl : SlotId) (p : List Byte) :
    (s.storeSerial sl p).cmdLen1 = s.cmdLen1 := rfl
@[simp] theorem storeSerial_txLen (sl : SlotId) (p : List Byte) :
    (s.storeSerial sl p).txLen = s.txLen := rfl
@[simp] theorem storeSerial_rxLen (sl : SlotId) (p : List Byte) :
    (s.storeSerial sl p).rxLen = s.rxLen := rfl
@[simp] theorem storeSerial_respStatus (sl : SlotId) (p : List Byte) :
    (s.storeSerial sl p).respStatus = s.respStatus := rfl
@[simp] theorem storeSerial_resultLen (sl : SlotId) (p : List Byte) :
    (s.storeSerial sl p).resultLen = s.resultLen := rfl
@[simp] theorem storeSerial_fresh (sl : SlotId) (p : List Byte) :
    (s.storeSerial sl p).fresh = s.fresh := rfl
@[simp] theorem storeSerial_recSlot (sl : SlotId) (p : List Byte) :
    (s.storeSerial sl p).recSlot = s.recSlot := rfl
@[simp] theorem storeSerial_recNext (sl : SlotId) (p : List Byte) :
    (s.storeSerial sl p).recNext = s.recNext := rfl
@[simp] theorem storeSerial_lastFail (sl : SlotId) (p : List Byte) :
    (s.storeSerial sl p).lastFail = s.lastFail := rfl
@[simp] theorem storeSerial_accessErr (sl : SlotId) (p : List Byte) :
    (s.storeSerial sl p).accessErr = s.accessErr := rfl
@[simp] theorem storeSerial_evtFifo (sl : SlotId) (p : List Byte) :
    (s.storeSerial sl p).evtFifo = s.evtFifo := rfl
@[simp] theorem storeSerial_logOvf (sl : SlotId) (p : List Byte) :
    (s.storeSerial sl p).logOvf = s.logOvf := rfl
@[simp] theorem storeSerial_mem (sl : SlotId) (p : List Byte) :
    (s.storeSerial sl p).mem = Memory.setBytes s.mem (serialBase sl) p := rfl
@[simp] theorem storeSerial_epoch (sl : SlotId) (p : List Byte) :
    (s.storeSerial sl p).epoch = s.epoch := rfl
@[simp] theorem storeSerial_tpSeq (sl : SlotId) (p : List Byte) :
    (s.storeSerial sl p).tpSeq = s.tpSeq := rfl
@[simp] theorem storeSerial_tpLog (sl : SlotId) (p : List Byte) :
    (s.storeSerial sl p).tpLog = s.tpLog := rfl
@[simp] theorem storeSerial_inputs (sl : SlotId) (p : List Byte) :
    (s.storeSerial sl p).inputs = s.inputs := rfl
@[simp] theorem storeSerial_defer (sl : SlotId) (p : List Byte) :
    (s.storeSerial sl p).defer = s.defer := rfl
@[simp] theorem storeSerial_hostData (sl : SlotId) (p : List Byte) :
    (s.storeSerial sl p).hostData = s.hostData := rfl

/-! ### storeValue -/

@[simp] theorem storeValue_params (sl : SlotId) (p : List Byte) :
    (s.storeValue sl p).params = s.params := rfl
@[simp] theorem storeValue_eng (sl : SlotId) (p : List Byte) :
    (s.storeValue sl p).eng = s.eng := rfl
@[simp] theorem storeValue_cont (sl : SlotId) (p : List Byte) :
    (s.storeValue sl p).cont = s.cont := rfl
@[simp] theorem storeValue_resume (sl : SlotId) (p : List Byte) :
    (s.storeValue sl p).resume = s.resume := rfl
@[simp] theorem storeValue_sleepUntil (sl : SlotId) (p : List Byte) :
    (s.storeValue sl p).sleepUntil = s.sleepUntil := rfl
@[simp] theorem storeValue_tpReq (sl : SlotId) (p : List Byte) :
    (s.storeValue sl p).tpReq = s.tpReq := rfl
@[simp] theorem storeValue_rxDeadline (sl : SlotId) (p : List Byte) :
    (s.storeValue sl p).rxDeadline = s.rxDeadline := rfl
@[simp] theorem storeValue_tpOpen (sl : SlotId) (p : List Byte) :
    (s.storeValue sl p).tpOpen = s.tpOpen := rfl
@[simp] theorem storeValue_txValid (sl : SlotId) (p : List Byte) :
    (s.storeValue sl p).txValid = s.txValid := rfl
@[simp] theorem storeValue_recPend (sl : SlotId) (p : List Byte) :
    (s.storeValue sl p).recPend = s.recPend := rfl
@[simp] theorem storeValue_lastValid (sl : SlotId) (p : List Byte) :
    (s.storeValue sl p).lastValid = s.lastValid := rfl
@[simp] theorem storeValue_unbounded (sl : SlotId) (p : List Byte) :
    (s.storeValue sl p).unbounded = s.unbounded := rfl
@[simp] theorem storeValue_rstate (sl : SlotId) (p : List Byte) :
    (s.storeValue sl p).rstate = s.rstate := rfl
@[simp] theorem storeValue_sstate (sl : SlotId) (p : List Byte) :
    (s.storeValue sl p).sstate = s.sstate := rfl
@[simp] theorem storeValue_curSlot (sl : SlotId) (p : List Byte) :
    (s.storeValue sl p).curSlot = s.curSlot := rfl
@[simp] theorem storeValue_attempts (sl : SlotId) (p : List Byte) :
    (s.storeValue sl p).attempts = s.attempts := rfl
@[simp] theorem storeValue_err (sl : SlotId) (p : List Byte) :
    (s.storeValue sl p).err = s.err := rfl
@[simp] theorem storeValue_rej (sl : SlotId) (p : List Byte) :
    (s.storeValue sl p).rej = s.rej := rfl
@[simp] theorem storeValue_irqPend (sl : SlotId) (p : List Byte) :
    (s.storeValue sl p).irqPend = s.irqPend := rfl
@[simp] theorem storeValue_irqEn (sl : SlotId) (p : List Byte) :
    (s.storeValue sl p).irqEn = s.irqEn := rfl
@[simp] theorem storeValue_chk (sl : SlotId) (p : List Byte) :
    (s.storeValue sl p).chk = s.chk := rfl
@[simp] theorem storeValue_now (sl : SlotId) (p : List Byte) :
    (s.storeValue sl p).now = s.now := rfl
@[simp] theorem storeValue_nowHiSh (sl : SlotId) (p : List Byte) :
    (s.storeValue sl p).nowHiSh = s.nowHiSh := rfl
@[simp] theorem storeValue_lastScan (sl : SlotId) (p : List Byte) :
    (s.storeValue sl p).lastScan = s.lastScan := rfl
@[simp] theorem storeValue_lastHiSh (sl : SlotId) (p : List Byte) :
    (s.storeValue sl p).lastHiSh = s.lastHiSh := rfl
@[simp] theorem storeValue_maxRetries (sl : SlotId) (p : List Byte) :
    (s.storeValue sl p).maxRetries = s.maxRetries := rfl
@[simp] theorem storeValue_minScanDelay (sl : SlotId) (p : List Byte) :
    (s.storeValue sl p).minScanDelay = s.minScanDelay := rfl
@[simp] theorem storeValue_scanCount (sl : SlotId) (p : List Byte) :
    (s.storeValue sl p).scanCount = s.scanCount := rfl
@[simp] theorem storeValue_remaining (sl : SlotId) (p : List Byte) :
    (s.storeValue sl p).remaining = s.remaining := rfl
@[simp] theorem storeValue_numAddr (sl : SlotId) (p : List Byte) :
    (s.storeValue sl p).numAddr = s.numAddr := rfl
@[simp] theorem storeValue_cmdLen0 (sl : SlotId) (p : List Byte) :
    (s.storeValue sl p).cmdLen0 = s.cmdLen0 := rfl
@[simp] theorem storeValue_cmdLen1 (sl : SlotId) (p : List Byte) :
    (s.storeValue sl p).cmdLen1 = s.cmdLen1 := rfl
@[simp] theorem storeValue_txLen (sl : SlotId) (p : List Byte) :
    (s.storeValue sl p).txLen = s.txLen := rfl
@[simp] theorem storeValue_rxLen (sl : SlotId) (p : List Byte) :
    (s.storeValue sl p).rxLen = s.rxLen := rfl
@[simp] theorem storeValue_respStatus (sl : SlotId) (p : List Byte) :
    (s.storeValue sl p).respStatus = s.respStatus := rfl
@[simp] theorem storeValue_resultLen (sl : SlotId) (p : List Byte) :
    (s.storeValue sl p).resultLen = s.resultLen := rfl
@[simp] theorem storeValue_fresh (sl : SlotId) (p : List Byte) :
    (s.storeValue sl p).fresh = s.fresh ||| 1#32 <<< sl.toNat := rfl
@[simp] theorem storeValue_recSlot (sl : SlotId) (p : List Byte) :
    (s.storeValue sl p).recSlot = s.recSlot := rfl
@[simp] theorem storeValue_recNext (sl : SlotId) (p : List Byte) :
    (s.storeValue sl p).recNext = s.recNext := rfl
@[simp] theorem storeValue_lastFail (sl : SlotId) (p : List Byte) :
    (s.storeValue sl p).lastFail = s.lastFail := rfl
@[simp] theorem storeValue_accessErr (sl : SlotId) (p : List Byte) :
    (s.storeValue sl p).accessErr = s.accessErr := rfl
@[simp] theorem storeValue_evtFifo (sl : SlotId) (p : List Byte) :
    (s.storeValue sl p).evtFifo = s.evtFifo := rfl
@[simp] theorem storeValue_logOvf (sl : SlotId) (p : List Byte) :
    (s.storeValue sl p).logOvf = s.logOvf := rfl
@[simp] theorem storeValue_mem (sl : SlotId) (p : List Byte) :
    (s.storeValue sl p).mem = Memory.setBytes s.mem (valueBase sl) p := rfl
@[simp] theorem storeValue_epoch (sl : SlotId) (p : List Byte) :
    (s.storeValue sl p).epoch = s.epoch := rfl
@[simp] theorem storeValue_tpSeq (sl : SlotId) (p : List Byte) :
    (s.storeValue sl p).tpSeq = s.tpSeq := rfl
@[simp] theorem storeValue_tpLog (sl : SlotId) (p : List Byte) :
    (s.storeValue sl p).tpLog = s.tpLog := rfl
@[simp] theorem storeValue_inputs (sl : SlotId) (p : List Byte) :
    (s.storeValue sl p).inputs = s.inputs := rfl
@[simp] theorem storeValue_defer (sl : SlotId) (p : List Byte) :
    (s.storeValue sl p).defer = s.defer := rfl
@[simp] theorem storeValue_hostData (sl : SlotId) (p : List Byte) :
    (s.storeValue sl p).hostData = s.hostData := rfl

/-! ### shutdown -/

@[simp] theorem shutdown_params : (s.shutdown).params = s.params := rfl
@[simp] theorem shutdown_eng : (s.shutdown).eng = .halted := rfl
@[simp] theorem shutdown_cont : (s.shutdown).cont = .none := rfl
@[simp] theorem shutdown_resume : (s.shutdown).resume = none := rfl
@[simp] theorem shutdown_sleepUntil : (s.shutdown).sleepUntil = none := rfl
@[simp] theorem shutdown_tpReq : (s.shutdown).tpReq = none := rfl
@[simp] theorem shutdown_rxDeadline : (s.shutdown).rxDeadline = none := rfl
@[simp] theorem shutdown_tpOpen : (s.shutdown).tpOpen = false := rfl
@[simp] theorem shutdown_txValid : (s.shutdown).txValid = s.txValid := rfl
@[simp] theorem shutdown_recPend : (s.shutdown).recPend = false := rfl
@[simp] theorem shutdown_lastValid : (s.shutdown).lastValid = s.lastValid := rfl
@[simp] theorem shutdown_unbounded : (s.shutdown).unbounded = s.unbounded := rfl
@[simp] theorem shutdown_rstate : (s.shutdown).rstate = s.rstate := rfl
@[simp] theorem shutdown_sstate : (s.shutdown).sstate = .halted := rfl
@[simp] theorem shutdown_curSlot : (s.shutdown).curSlot = s.curSlot := rfl
@[simp] theorem shutdown_attempts : (s.shutdown).attempts = s.attempts := rfl
@[simp] theorem shutdown_err : (s.shutdown).err = s.err := rfl
@[simp] theorem shutdown_rej : (s.shutdown).rej = s.rej := rfl
@[simp] theorem shutdown_irqPend : (s.shutdown).irqPend = s.irqPend := rfl
@[simp] theorem shutdown_irqEn : (s.shutdown).irqEn = s.irqEn := rfl
@[simp] theorem shutdown_chk : (s.shutdown).chk = s.chk := rfl
@[simp] theorem shutdown_now : (s.shutdown).now = s.now := rfl
@[simp] theorem shutdown_nowHiSh : (s.shutdown).nowHiSh = s.nowHiSh := rfl
@[simp] theorem shutdown_lastScan : (s.shutdown).lastScan = s.lastScan := rfl
@[simp] theorem shutdown_lastHiSh : (s.shutdown).lastHiSh = s.lastHiSh := rfl
@[simp] theorem shutdown_maxRetries : (s.shutdown).maxRetries = s.maxRetries := rfl
@[simp] theorem shutdown_minScanDelay : (s.shutdown).minScanDelay = s.minScanDelay := rfl
@[simp] theorem shutdown_scanCount : (s.shutdown).scanCount = s.scanCount := rfl
@[simp] theorem shutdown_remaining : (s.shutdown).remaining = s.remaining := rfl
@[simp] theorem shutdown_numAddr : (s.shutdown).numAddr = s.numAddr := rfl
@[simp] theorem shutdown_cmdLen0 : (s.shutdown).cmdLen0 = s.cmdLen0 := rfl
@[simp] theorem shutdown_cmdLen1 : (s.shutdown).cmdLen1 = s.cmdLen1 := rfl
@[simp] theorem shutdown_txLen : (s.shutdown).txLen = s.txLen := rfl
@[simp] theorem shutdown_rxLen : (s.shutdown).rxLen = s.rxLen := rfl
@[simp] theorem shutdown_respStatus : (s.shutdown).respStatus = s.respStatus := rfl
@[simp] theorem shutdown_resultLen : (s.shutdown).resultLen = s.resultLen := rfl
@[simp] theorem shutdown_fresh : (s.shutdown).fresh = s.fresh := rfl
@[simp] theorem shutdown_recSlot : (s.shutdown).recSlot = s.recSlot := rfl
@[simp] theorem shutdown_recNext : (s.shutdown).recNext = s.recNext := rfl
@[simp] theorem shutdown_lastFail : (s.shutdown).lastFail = s.lastFail := rfl
@[simp] theorem shutdown_accessErr : (s.shutdown).accessErr = s.accessErr := rfl
@[simp] theorem shutdown_evtFifo : (s.shutdown).evtFifo = s.evtFifo := rfl
@[simp] theorem shutdown_logOvf : (s.shutdown).logOvf = s.logOvf := rfl
@[simp] theorem shutdown_slots : (s.shutdown).slots = s.slots := rfl
@[simp] theorem shutdown_mem : (s.shutdown).mem = s.mem := rfl
@[simp] theorem shutdown_epoch : (s.shutdown).epoch = s.epoch := rfl
@[simp] theorem shutdown_tpSeq : (s.shutdown).tpSeq = s.tpSeq := rfl
@[simp] theorem shutdown_tpLog :
    (s.shutdown).tpLog = if s.tpOpen then .closeLine :: s.tpLog else s.tpLog := rfl
@[simp] theorem shutdown_inputs : (s.shutdown).inputs = s.inputs := rfl
@[simp] theorem shutdown_defer : (s.shutdown).defer = s.defer := rfl
@[simp] theorem shutdown_hostData : (s.shutdown).hostData = s.hostData := rfl

/-! ### The slot file -/

@[simp] theorem slot_setSlot_same (sl : SlotId) (x : Slot) : (s.setSlot sl x).slot sl = x := by
  simp [State.slot]

theorem slot_setSlot_ne (sl sl' : SlotId) (x : Slot) (h : sl ≠ sl') :
    (s.setSlot sl x).slot sl' = s.slot sl' := by
  have : sl.toNat ≠ sl'.toNat := fun e => h (BitVec.eq_of_toNat_eq e)
  simp [State.slot, this]

/-- Updating the rest of the state leaves the slot file as read. -/
theorem slot_congr (t : State) (h : t.slots = s.slots) (sl : SlotId) : t.slot sl = s.slot sl := by
  simp [State.slot, h]

/-- A byte reads the same from states with the same buffers and the same draw. -/
theorem byteAt_congr (t : State) (hm : t.mem = s.mem) (he : t.epoch = s.epoch) (a : Nat) :
    t.byteAt a = s.byteAt a := by
  simp [State.byteAt, hm, he]

end Sys2Proof.Machine
end

