-- ==== Sys2Proof/Laws/Memory.lean ====
section
/-! SUPPORT. The buffer bytes: a read after a write, and the canonical form kept by every write. -/

namespace Sys2Proof.Machine

/-- A byte written reads back. -/
theorem get?_set_same (m : List Host.Cell) (a : Nat) (b : Byte) :
    Memory.get? (Memory.set m a b) a = some b := by
  induction m with
  | nil => simp [Memory.set, Memory.get?]
  | cons x r ih =>
    obtain ⟨c, d⟩ := x
    simp only [Memory.set]
    split_ifs with h1 h2
    · simp [Memory.get?]
    · simp [Memory.get?]
    · simp [Memory.get?, Ne.symm h2, ih]

/-- A write leaves every other address alone. -/
theorem get?_set_ne (m : List Host.Cell) (a c : Nat) (b : Byte) (h : c ≠ a) :
    Memory.get? (Memory.set m a b) c = Memory.get? m c := by
  induction m with
  | nil => simp [Memory.set, Memory.get?, Ne.symm h]
  | cons x r ih =>
    obtain ⟨e, d⟩ := x
    simp only [Memory.set]
    split_ifs with h1 h2
    · simp [Memory.get?, Ne.symm h]
    · subst h2; simp [Memory.get?, Ne.symm h]
    · simp only [Memory.get?, ih]

/-- Every address of a canonical memory after the first is above the first. -/
theorem wf_cons {x : Host.Cell} {r : List Host.Cell} (h : Memory.wf (x :: r) = true) :
    Memory.wf r = true := by
  cases r with
  | nil => rfl
  | cons y r => simp [Memory.wf] at h; exact h.2

/-- Putting a lower address before a canonical memory keeps the form. -/
theorem wf_cons_of {x : Host.Cell} {r : List Host.Cell} (h : Memory.wf r = true)
    (hx : ∀ y ∈ r.head?, x.1 < y.1) : Memory.wf (x :: r) = true := by
  cases r with
  | nil => rfl
  | cons y r => simp only [Memory.wf, Bool.and_eq_true, decide_eq_true_eq]; exact ⟨hx y rfl, h⟩

/-- The first address of a memory after a write: the one written, or the one that was first. -/
theorem head?_set (m : List Host.Cell) (a : Nat) (b : Byte) :
    (Memory.set m a b).head? = some (a, b) ∨
      ((Memory.set m a b).head? = m.head? ∧ ∀ x ∈ m.head?, x.1 < a) := by
  cases m with
  | nil => simp [Memory.set]
  | cons x r =>
    obtain ⟨c, d⟩ := x
    simp only [Memory.set]
    split_ifs with h1 h2
    · simp
    · simp
    · right; simp; omega

/-- A one-byte write keeps the canonical form. -/
theorem wf_set (m : List Host.Cell) (a : Nat) (b : Byte) (h : Memory.wf m = true) :
    Memory.wf (Memory.set m a b) = true := by
  induction m with
  | nil => rfl
  | cons x r ih =>
    obtain ⟨c, d⟩ := x
    have hr := wf_cons h
    have hx : ∀ y ∈ r.head?, c < y.1 := by
      cases r with
      | nil => simp
      | cons y r => simp [Memory.wf] at h; simpa using h.1
    simp only [Memory.set]
    split_ifs with h1 h2
    · exact wf_cons_of h (by simpa using h1)
    · subst h2; exact wf_cons_of hr hx
    · refine wf_cons_of (ih hr) ?_
      rcases head?_set r a b with e | ⟨e, _⟩ <;> rw [e]
      · simp; omega
      · exact hx

/-- Every write of a byte sequence keeps the canonical form. -/
theorem wf_setBytes (bs : List Byte) (m : List Host.Cell) (a : Nat) (h : Memory.wf m = true) :
    Memory.wf (Memory.setBytes m a bs) = true := by
  induction bs generalizing m a with
  | nil => exact h
  | cons b bs ih => exact ih _ _ (wf_set m a b h)

/-- A sequence written leaves every address outside it alone. -/
theorem get?_setBytes_out (bs : List Byte) (m : List Host.Cell) (a c : Nat)
    (h : c < a ∨ a + bs.length ≤ c) :
    Memory.get? (Memory.setBytes m a bs) c = Memory.get? m c := by
  induction bs generalizing m a with
  | nil => rfl
  | cons b bs ih =>
    simp only [List.length_cons] at h
    rw [Memory.setBytes, ih _ _ (by omega), get?_set_ne _ _ _ _ (by omega)]

/-- A sequence written reads back byte by byte. -/
theorem get?_setBytes_in (bs : List Byte) (m : List Host.Cell) (a j : Nat) (h : j < bs.length) :
    Memory.get? (Memory.setBytes m a bs) (a + j) = some bs[j] := by
  induction bs generalizing m a j with
  | nil => simp at h
  | cons b bs ih =>
    rw [Memory.setBytes]
    cases j with
    | zero =>
      have : Memory.get? (Memory.setBytes (Memory.set m a b) (a + 1) bs) a = some b := by
        rw [get?_setBytes_out _ _ _ _ (by omega), get?_set_same]
      simpa using this
    | succ j =>
      have := ih (Memory.set m a b) (a + 1) j (by simpa using h)
      rw [show a + (j + 1) = a + 1 + j by omega, this]; rfl

variable (s : State)

/-- A byte outside what `putBytes` writes reads as before. -/
theorem byteAt_putBytes_out (base a : Nat) (bs : List Byte) (h : a < base ∨ base + bs.length ≤ a) :
    (s.putBytes base bs).byteAt a = s.byteAt a := by
  simp [State.byteAt, State.putBytes, get?_setBytes_out _ _ _ _ h]

/-- A byte `putBytes` wrote reads back. -/
theorem byteAt_putBytes_in (base j : Nat) (bs : List Byte) (h : j < bs.length) :
    (s.putBytes base bs).byteAt (base + j) = bs[j] := by
  simp [State.byteAt, State.putBytes, get?_setBytes_in _ _ _ _ h]

@[simp] theorem length_bytesAt (base n : Nat) : (s.bytesAt base n).length = n := by
  simp [State.bytesAt]

/-- What `putBytes` wrote reads back as a sequence. -/
theorem bytesAt_putBytes (base : Nat) (bs : List Byte) :
    (s.putBytes base bs).bytesAt base bs.length = bs := by
  apply List.ext_getElem (by simp)
  intro j h1 h2
  simp only [State.bytesAt, List.getElem_map, List.getElem_range]
  exact byteAt_putBytes_in s base j bs h2

end Sys2Proof.Machine
end

