-- ==== Sys2Proof/Laws/Ops.lean ====
section
/-! SUPPORT. For each shared operation, one lemma that says everything it can do; the provers cite these
instead of unfolding the operations. -/

namespace Sys2Proof.Machine

variable (s : State)

/-! ### Issue and launch (R100) -/

/-- `issue` always answers a next state: Halted, Busy, the first failed precondition, or acceptance. -/
theorem issue_cases (i : Instr) (pre : State → Option Code) (go : State → State) :
    (s.eng = .halted ∧ issue i pre go s = .next (s.reject .halted (opOf i))) ∨
    ((s.eng = .cmd ∨ s.eng = .sched) ∧ issue i pre go s = .next (s.reject .busy (opOf i))) ∨
    (s.eng = .ready ∧ ∃ c, pre s = some c ∧ issue i pre go s = .next (s.reject c (opOf i))) ∨
    (s.eng = .ready ∧ pre s = none ∧ issue i pre go s = .next (go s)) := by
  unfold issue
  cases he : s.eng
  · cases hp : pre s <;> simp
  all_goals simp

theorem issue_halted (i : Instr) (pre : State → Option Code) (go : State → State)
    (h : s.eng = .halted) : issue i pre go s = .next (s.reject .halted (opOf i)) := by
  simp [issue, h]

theorem issue_busy (i : Instr) (pre : State → Option Code) (go : State → State)
    (h : s.eng = .cmd ∨ s.eng = .sched) : issue i pre go s = .next (s.reject .busy (opOf i)) := by
  rcases h with h | h <;> simp [issue, h]

theorem issue_reject (i : Instr) (pre : State → Option Code) (go : State → State) (c : Code)
    (h : s.eng = .ready) (hp : pre s = some c) :
    issue i pre go s = .next (s.reject c (opOf i)) := by
  simp [issue, h, hp]

theorem issue_accept (i : Instr) (pre : State → Option Code) (go : State → State)
    (h : s.eng = .ready) (hp : pre s = none) : issue i pre go s = .next (go s) := by
  simp [issue, h, hp]

theorem launch_now (i : Instr) (run : State → State) (h : s.defer = false) :
    launch i run s = run { s with eng := .cmd } := by
  simp [launch, h]

theorem launch_defer (i : Instr) (run : State → State) (h : s.defer = true) :
    launch i run s = { s with eng := .cmd, cont := .start i, resume := some .go } := by
  simp [launch, h]

/-- No precondition fails when none of the listed conditions holds. -/
theorem firstFailure_eq_none (l : List (Bool × Code)) :
    firstFailure l = none ↔ ∀ x ∈ l, x.1 = false := by
  induction l with
  | nil => simp [firstFailure]
  | cons x r ih => obtain ⟨b, c⟩ := x; cases b <;> simp [firstFailure, ih]

/-! ### Suspension (R11, R165) -/

theorem sleep_zero (k : Cont) : s.sleep 0 k = none := by simp [State.sleep]

theorem sleep_pos (d : Time) (k : Cont) (h : d ≠ 0) :
    s.sleep d k = some { s with cont := k, sleepUntil := some (s.now + d) } := by
  simp only [State.sleep, if_neg h]

/-- `sleep` either does not suspend, and then d = 0, or suspends until NOW + d. -/
theorem sleep_cases (d : Time) (k : Cont) :
    (d = 0 ∧ s.sleep d k = none) ∨
    (d ≠ 0 ∧ s.sleep d k = some { s with cont := k, sleepUntil := some (s.now + d) }) := by
  by_cases h : d = 0
  · subst h; exact .inl ⟨rfl, sleep_zero s k⟩
  · exact .inr ⟨h, sleep_pos s d k h⟩

/-- A receive either returns at once, with RX_TIMEOUT_MS = 0, or is outstanding until NOW +
RX_TIMEOUT_MS. -/
theorem receive_cases (k : Cont) :
    (s.params.rxTimeoutMs = 0 ∧ s.receive k = none) ∨
    (s.params.rxTimeoutMs ≠ 0 ∧ s.receive k =
      some { s.tpCall s.recvReq k with
        rxDeadline := some (s.now + s.params.rxTimeoutMs.setWidth 64) }) := by
  by_cases h : s.params.rxTimeoutMs = 0
  · exact .inl ⟨h, by simp [State.receive, h]⟩
  · exact .inr ⟨h, by simp only [State.receive, if_neg h]⟩

/-! ### The codec -/

/-- `encodeFrame` overflows exactly beyond TX_CAP, and otherwise gives the frame of R110. -/
theorem encodeFrame_cases (cap : Nat) (p : List Byte) (a : Byte) :
    (cap < p.length + 3 ∧ encodeFrame cap p a = none) ∨
    (p.length + 3 ≤ cap ∧ encodeFrame cap p a =
      some ((a ||| Config.addrMark) :: p ++ [Config.etx, xorBytes p ^^^ Config.etx])) := by
  by_cases h : cap < p.length + 3
  · exact .inl ⟨h, by simp [encodeFrame, h]⟩
  · exact .inr ⟨by omega, by simp [encodeFrame, h]⟩

/-- A frame's length is its payload's plus three. -/
theorem length_of_encodeFrame {cap : Nat} {p : List Byte} {a : Byte} {f : List Byte}
    (h : encodeFrame cap p a = some f) : f.length = p.length + 3 ∧ f.length ≤ cap := by
  rcases encodeFrame_cases cap p a with ⟨_, e⟩ | ⟨hc, e⟩
  · simp [e] at h
  · simp only [e, Option.some.injEq] at h
    subst h
    simp
    omega

/-! ### The session -/

/-- A Query's first part: Overflow, or the frame in TXBUF and its send outstanding (R169). -/
theorem queryBegin_cases (t : Task) :
    (∃ f, encodeFrame s.params.txCap (s.payload t.kind) (s.slot t.slot).addr = some f ∧
      queryBegin t s =
        .sent ((({ s with curSlot := t.slot }).loadFrame f).tpCall (.sendBytes f) (.querySend t))) ∨
    (encodeFrame s.params.txCap (s.payload t.kind) (s.slot t.slot).addr = none ∧
      queryBegin t s = .overflow ({ s with curSlot := t.slot }).dropFrame) := by
  have hp : State.payload { s with curSlot := t.slot } t.kind = s.payload t.kind := by
    cases t.kind <;> rfl
  have hs : State.slot { s with curSlot := t.slot } t.slot = s.slot t.slot := rfl
  cases h : encodeFrame s.params.txCap (s.payload t.kind) (s.slot t.slot).addr with
  | none => right; simp [queryBegin, hp, hs, h]
  | some f => left; simp [queryBegin, hp, hs, h]

/-- Query's Receive: outstanding, or ended in Timeout at once (R166, R169). -/
theorem queryReceive_cases (t : Task) :
    (s.params.rxTimeoutMs ≠ 0 ∧ queryReceive t s =
      .suspended { s.tpCall s.recvReq (.queryRecv t) with
        rxDeadline := some (s.now + s.params.rxTimeoutMs.setWidth 64) }) ∨
    (s.params.rxTimeoutMs = 0 ∧
      queryReceive t s = .ended { s.receiveNow with rxLen := 0 } (.err .timeoutError)) := by
  rcases receive_cases s (.queryRecv t) with ⟨h, e⟩ | ⟨h, e⟩
  · exact .inr ⟨h, by simp [queryReceive, e, queryGot, State.takeRx]⟩
  · exact .inl ⟨h, by simp [queryReceive, e]⟩

/-- Query after the send's answer: SendFailure, or SENT counted and the settle interval (R169). -/
theorem queryAfterSend_cases (t : Task) (ok : Bool) :
    (ok = false ∧ queryAfterSend t ok s = .ended s (.err .sendFailure)) ∨
    (ok = true ∧ s.params.settleMs.setWidth 64 ≠ (0 : Time) ∧ queryAfterSend t ok s =
      .suspended { s.countSent t.slot with
        cont := .querySettle t
        sleepUntil := some (s.now + s.params.settleMs.setWidth 64) }) ∨
    (ok = true ∧ s.params.settleMs.setWidth 64 = (0 : Time) ∧
      queryAfterSend t ok s = queryReceive t (s.countSent t.slot)) := by
  cases ok with
  | false => exact .inl ⟨rfl, by simp [queryAfterSend]⟩
  | true =>
    have hp : (s.countSent t.slot).params = s.params := rfl
    rcases sleep_cases (s.countSent t.slot) (s.params.settleMs.setWidth 64) (.querySettle t) with
      ⟨h, e⟩ | ⟨h, e⟩
    · exact .inr (.inr ⟨rfl, h, by simp [queryAfterSend, hp, e]⟩)
    · exact .inr (.inl ⟨rfl, h, by simp [queryAfterSend, hp, e]; rfl⟩)

/-- Query after its receive: Timeout, EmptyResponse, ChecksumMismatch, or the result stored and RECV
counted (R169). -/
theorem queryGot_cases (t : Task) (rx : Option (List Byte)) :
    (rx = none ∧ queryGot t rx s = ({ s with rxLen := 0 }, .err .timeoutError)) ∨
    (∃ b, rx = some b ∧ decodeFrame b = .empty ∧
      queryGot t rx s = ((s.takeRx (some b)).noteChk b, .err .emptyResponse)) ∨
    (∃ b c, rx = some b ∧ decodeFrame b = .mismatch c ∧
      queryGot t rx s = ((s.takeRx (some b)).noteChk b, .err .checksumMismatch)) ∨
    (∃ b st p c, rx = some b ∧ decodeFrame b = .ok st p c ∧
      queryGot t rx s =
        ((((s.takeRx (some b)).noteChk b).countRecv t.slot).storeResult st p, .ok st p)) := by
  cases rx with
  | none => exact .inl ⟨rfl, rfl⟩
  | some b =>
    cases h : decodeFrame b with
    | empty => exact .inr (.inl ⟨b, rfl, h, by simp [queryGot, h]⟩)
    | mismatch c => exact .inr (.inr (.inl ⟨b, c, rfl, h, by simp [queryGot, h]⟩))
    | ok st p c => exact .inr (.inr (.inr ⟨b, st, p, c, rfl, h, by simp [queryGot, h]⟩))

/-! ### The retry loop -/

/-- The loop test: the next attempt's send outstanding, FATAL, or EXHAUSTED (R202). -/
theorem transactAttempt_cases (k : Kind) (sl : SlotId) (o : Owner) :
    (s.attempts < s.maxRetries ∧ ∃ t,
      queryBegin (.transact k sl o) { s with attempts := s.attempts + 1 } = .sent t ∧
      transactAttempt k sl o s = .suspended t) ∨
    (s.attempts < s.maxRetries ∧ ∃ t,
      queryBegin (.transact k sl o) { s with attempts := s.attempts + 1 } = .overflow t ∧
      transactAttempt k sl o s = .ended (transactFatal k sl t) .overflow) ∨
    (¬ s.attempts < s.maxRetries ∧
      transactAttempt k sl o s = .ended (transactExhaust k sl s) (.exhausted s.lastFail)) := by
  by_cases h : s.attempts < s.maxRetries
  · cases hq : queryBegin (.transact k sl o) { s with attempts := s.attempts + 1 } with
    | sent t => exact .inl ⟨h, t, rfl, by simp only [transactAttempt, if_pos h, hq]⟩
    | overflow t => exact .inr (.inl ⟨h, t, rfl, by simp only [transactAttempt, if_pos h, hq]⟩)
  · exact .inr (.inr ⟨h, by simp only [transactAttempt, if_neg h]⟩)

/-- After an attempt: its class decides (R202, R210). -/
theorem transactOutcome_cases (k : Kind) (sl : SlotId) (o : Owner) (r : QResult) :
    (classify s.params k r = .fatal ∧
      transactOutcome k sl o r s = .ended (transactFatal k sl s) .overflow) ∨
    (∃ p, classify s.params k r = .success p ∧ transactOutcome k sl o r s =
      .ended ({ s.store k sl p with rstate := .succeeded }.keepRetry k sl) .ok) ∨
    (classify s.params k r = .naked ∧ transactOutcome k sl o r s = transactAttempt k sl o
      { s.countNak sl with rstate := .naked, lastFail := .negativeAcknowledge }) ∨
    (∃ c, classify s.params k r = .retry c ∧ transactOutcome k sl o r s = transactAttempt k sl o
      ({ s with rstate := .attempting, lastFail := c }.log c 0 sl k)) := by
  cases h : classify s.params k r with
  | fatal => exact .inl ⟨rfl, by simp [transactOutcome, h]⟩
  | success p => exact .inr (.inl ⟨p, rfl, by simp [transactOutcome, h]⟩)
  | naked => exact .inr (.inr (.inl ⟨rfl, by simp [transactOutcome, h]⟩))
  | retry c => exact .inr (.inr (.inr ⟨c, rfl, by simp [transactOutcome, h]⟩))

/-! ### The scheduler -/

/-- WAITING's test: a poll sleep, the open request, or (POLL_MS = 0) no suspension (R233, R234). -/
theorem schedTest_cases :
    (s.mustWait = true ∧ s.params.pollMs.setWidth 64 ≠ (0 : Time) ∧ schedTest s =
      { s with cont := .schedPoll, sleepUntil := some (s.now + s.params.pollMs.setWidth 64) }) ∨
    (s.mustWait = true ∧ s.params.pollMs.setWidth 64 = (0 : Time) ∧
      schedTest s = { s with cont := .spin }) ∨
    (s.mustWait = false ∧ schedTest s = s.tpCall s.openReq .schedOpen) := by
  cases h : s.mustWait with
  | false => exact .inr (.inr ⟨rfl, by simp [schedTest, h]⟩)
  | true =>
    rcases sleep_cases s (s.params.pollMs.setWidth 64) .schedPoll with ⟨hd, e⟩ | ⟨hd, e⟩
    · exact .inr (.inl ⟨rfl, hd, by simp [schedTest, h, e]⟩)
    · exact .inl ⟨rfl, hd, by simp [schedTest, h, e]⟩

/-- IDLE: to WAITING with budget left, else idle for good (R232, R242). -/
theorem schedIdle_cases :
    ((s.unbounded = true ∨ s.remaining ≠ 0) ∧
      schedIdle s = schedTest { s with sstate := .waiting }) ∨
    (s.unbounded = false ∧ s.remaining = 0 ∧
      schedIdle s = { s with sstate := .idle, cont := .haltIdle }) := by
  by_cases h : (s.unbounded || s.remaining != 0) = true
  · exact .inl ⟨by simpa using h, by simp only [schedIdle, if_pos h]⟩
  · refine .inr ⟨?_, ?_, by simp only [schedIdle, if_neg h]⟩ <;> simp_all

/-- WRITING's loop: the next FRESH slot's record, or COMPLETE (R240). -/
theorem schedPresent_cases :
    (∃ j, s.nextFresh = some j ∧ schedPresent s =
      { s with recSlot := BitVec.ofNat 5 j, recPend := true, recNext := j + 1,
               cont := .schedAck }.raiseIrq .record) ∨
    (s.nextFresh = none ∧ schedPresent s = schedComplete s) := by
  cases h : s.nextFresh with
  | none => exact .inr ⟨rfl, by simp [schedPresent, h]⟩
  | some j => exact .inl ⟨j, rfl, by simp [schedPresent, h]⟩

/-! ### The agents -/

/-- A transport answer: taken, discarded, or ruled out by the contract (R89, R164, R166). -/
theorem transportAnswer_cases (tag : Nat) (a : TpAnswer) :
    (∃ o, s.tpReq = some o ∧ o.tag = tag ∧ o.req.allows s.params.rxCap a = true ∧
      s.inTime = true ∧ transportAnswer tag a s =
        .next { s with tpReq := none, rxDeadline := none, resume := some (.answered a) }) ∨
    transportAnswer tag a s = .next s ∨
    transportAnswer tag a s = .refused .transportContract := by
  unfold transportAnswer
  split
  · rename_i o ho
    split_ifs with h1 h2 h3 h4
    · exact .inl ⟨o, ho, h1, h2, h3, rfl⟩
    · exact .inr (.inl rfl)
    · exact .inr (.inr rfl)
    · exact .inr (.inl rfl)
    · exact .inr (.inr rfl)
  · split_ifs
    · exact .inr (.inl rfl)
    · exact .inr (.inr rfl)

/-- An engine step: none to take, a fault, or the pseudocode from the suspension point on (R60). -/
theorem engineMove_cases :
    (s.resume = none ∧ engineMove s = .next s) ∨
    (∃ r, s.resume = some r ∧ s.cont.fits r = true ∧
      engineMove s = .next (runFrom s.cont r { s with resume := none })) ∨
    (∃ r, s.resume = some r ∧ s.cont.fits r = false ∧ engineMove s = .fault .strayResume) := by
  cases h : s.resume with
  | none => exact .inl ⟨rfl, by simp [engineMove, h]⟩
  | some r =>
    cases hf : s.cont.fits r with
    | true => exact .inr (.inl ⟨r, rfl, hf, by simp [engineMove, h, hf]⟩)
    | false => exact .inr (.inr ⟨r, rfl, hf, by simp [engineMove, h, hf]⟩)

/-- What `settle` can answer as a next state. -/
theorem settle_next {t : State} (h : settle s = .next t) :
    s.cont ≠ .spin ∧
    ((s.defer = true ∧ t = s) ∨
      (s.defer = false ∧ engineMove s = .next t ∧ t.cont ≠ .spin)) := by
  unfold settle at h
  split_ifs at h with h1 h2
  · injection h with h; exact ⟨h1, .inl ⟨h2, h.symm⟩⟩
  · refine ⟨h1, .inr ⟨by simpa using h2, ?_⟩⟩
    split at h
    · rename_i s' hs
      split_ifs at h with h3
      injection h with h
      subst h
      exact ⟨hs, h3⟩
    · cases h
    · cases h

/-- What a step can do: the engine's step that was left over, or the next step of the schedule and
the engine's after it (R85). -/
theorem step_cases :
    (s.inputs = [] ∧ step s = settle { s with defer := false }) ∨
    (∃ m rest, s.inputs = m :: rest ∧ s.resume.isSome = true ∧ m.event = .tick ∧
      step s = settle { s with defer := false }) ∨
    (∃ m rest, s.inputs = m :: rest ∧ ¬ (s.resume.isSome = true ∧ m.event = .tick) ∧
      step s = performThenSettle m.event { s with inputs := rest, defer := m.defer }) := by
  unfold step nextStep
  cases h : s.inputs with
  | nil => exact .inl ⟨rfl, by simp⟩
  | cons m rest =>
    by_cases hc : s.resume.isSome = true ∧ m.event = .tick
    · exact .inr (.inl ⟨m, rest, rfl, hc.1, hc.2, by simp [hc.1, hc.2]⟩)
    · refine .inr (.inr ⟨m, rest, rfl, hc, ?_⟩)
      have : ¬ ((s.resume.isSome && decide (m.event = .tick)) = true) := by simpa using hc
      simp only [if_neg this]

/-- `performThenSettle` answers a next state only through both parts. -/
theorem performThenSettle_next {e : Event} {t : State} (h : performThenSettle e s = .next t) :
    ∃ u, perform e s = .next u ∧ settle u = .next t := by
  unfold performThenSettle at h
  split at h
  · rename_i u hu; exact ⟨u, hu, h⟩
  · cases h
  · cases h

end Sys2Proof.Machine
end

