-- ==== Sys2Proof/Laws/Steps.lean ====
section
/-! SUPPORT. The shapes in which a step ends a suspension (an answer, a receive's deadline, a sleep's
deadline), what a settled engine step gives, and what the operands and frames a command reads are. -/

namespace Sys2Proof.Machine

variable {s : State}

/-! ### OP of a command (R102, R104) -/

theorem extractLsb'_append_low {n : Nat} (x : BitVec n) (y : BitVec 8) :
    BitVec.extractLsb' 0 8 (x ++ y) = y := by
  apply BitVec.eq_of_getLsbD_eq
  intro i hi
  simp [BitVec.getLsbD_append, hi]

theorem opOf_encode (k : Kind) (a : Byte) : opOf (.encode k a) = 0x01 := extractLsb'_append_low _ _
theorem opOf_verify : opOf .verify = 0x02 := extractLsb'_append_low _ _
theorem opOf_decode : opOf .decode = 0x03 := extractLsb'_append_low _ _
theorem opOf_openTp : opOf .openTp = 0x04 := extractLsb'_append_low _ _
theorem opOf_closeTp : opOf .closeTp = 0x05 := extractLsb'_append_low _ _
theorem opOf_send : opOf .send = 0x06 := extractLsb'_append_low _ _
theorem opOf_recv : opOf .recv = 0x07 := extractLsb'_append_low _ _
theorem opOf_flush : opOf .flush = 0x08 := extractLsb'_append_low _ _
theorem opOf_query (k : Kind) (sl : SlotId) : opOf (.query k sl) = 0x09 :=
  extractLsb'_append_low _ _
theorem opOf_transactSn (sl : SlotId) : opOf (.transactSn sl) = 0x0A := extractLsb'_append_low _ _
theorem opOf_transactMeas (sl : SlotId) : opOf (.transactMeas sl) = 0x0A :=
  extractLsb'_append_low _ _
theorem opOf_scanStart : opOf .scanStart = 0x0B := extractLsb'_append_low _ _
theorem opOf_shutdown : opOf .shutdown = 0x0C := extractLsb'_append_low _ _
theorem opOf_resultAck (c : Byte) : opOf (.resultAck c) = 0x0D := extractLsb'_append_low _ _
theorem opOf_delay (ms : BitVec 24) : opOf (.delay ms) = 0x0E := extractLsb'_append_low _ _

/-! ### What a read of the buffers depends on -/

/-- A byte sequence reads the same from states with the same buffers and the same draw. -/
theorem bytesAt_congr {t : State} (hm : t.mem = s.mem) (he : t.epoch = s.epoch) (base n : Nat) :
    t.bytesAt base n = s.bytesAt base n := by
  simp [State.bytesAt, byteAt_congr s t hm he]

theorem payload_congr {t : State} (k : Kind) (hm : t.mem = s.mem) (he : t.epoch = s.epoch)
    (hl : t.cmdLen k = s.cmdLen k) : t.payload k = s.payload k := by
  simp [State.payload, bytesAt_congr hm he, hl]

/-- A state that differs by a `setBytes` stores those bytes and keeps every other. -/
theorem storesAt_of {t : State} (base : Nat) (bs : List Byte)
    (hm : t.mem = Memory.setBytes s.mem base bs) (he : t.epoch = s.epoch) :
    s.StoresAt t base bs := by
  have h : ∀ a, t.byteAt a = (s.putBytes base bs).byteAt a := by
    intro a
    simp [State.byteAt, State.putBytes, hm, he]
  refine ⟨?_, fun a ha => by rw [h, byteAt_putBytes_out _ _ _ _ ha]⟩
  conv_rhs => rw [← bytesAt_putBytes s base bs]
  simp [State.bytesAt, h]

/-! ### Frames (R110, R131, R134) -/

/-- The frame of a payload that fits TX_CAP. -/
theorem encodeFrame_payload (k : Kind) (a : Byte)
    (h : (s.cmdLen k).toNat + 3 ≤ s.params.txCap) :
    encodeFrame s.params.txCap (s.payload k) a = some (requestFrame a (s.payload k)) := by
  simp [encodeFrame, State.payload, not_lt.2 h, requestFrame, Config.addrMark, Config.etx]

/-- Overflow of a payload that does not. -/
theorem encodeFrame_payload_none (k : Kind) (a : Byte)
    (h : s.params.txCap < (s.cmdLen k).toNat + 3) :
    encodeFrame s.params.txCap (s.payload k) a = none := by
  simp [encodeFrame, State.payload, h]

theorem getLastD_append_one {α : Type} (l : List α) (a d : α) : (l ++ [a]).getLastD d = a := by
  rw [List.getLastD_eq_getLast?]
  simp

/-- The last byte of a frame is its checksum. -/
theorem lastByte_frame (x : Byte) (p : List Byte) (e c : Byte) :
    lastByte (x :: (p ++ [e, c])) = c := by
  have h := getLastD_append_one (x :: p ++ [e]) c 0
  simpa [lastByte] using h

/-- A mismatch is never of an empty response, and names its checksum (R134). -/
theorem decodeFrame_mismatch {r : List Byte} {c : Byte} (h : decodeFrame r = .mismatch c) :
    r ≠ [] ∧ bodyXor r = c := by
  revert h
  unfold decodeFrame
  split
  · simp
  · split <;> simp_all

/-- What a decoded response is made of (R134). -/
theorem decodeFrame_ok {r : List Byte} {st : Byte} {p : List Byte} {c : Byte}
    (h : decodeFrame r = .ok st p c) :
    r ≠ [] ∧ bodyXor r = c ∧ p = unpack r ∧ bodyXor r = lastByte r ∧ r.head? = some st := by
  revert h
  unfold decodeFrame
  split
  · simp
  · split
    · simp
    · simp
      rintro rfl rfl rfl
      simp_all

/-- A payload is at most two bytes shorter than its response (R134). -/
theorem length_unpack (r : List Byte) : (unpack r).length ≤ r.length - 2 := by
  unfold unpack
  refine (List.length_filter_le _ _).trans ((List.takeWhile_sublist _).length_le.trans ?_)
  simp
  omega

/-! ### Sleeps of a build parameter (R11) -/

/-- A nonzero 16-bit parameter stays nonzero as a duration. -/
theorem setWidth_ne_zero {x : BitVec 16} (h : x ≠ 0) : x.setWidth 64 ≠ (0 : Time) := by
  intro e
  apply h
  apply BitVec.eq_of_toNat_eq
  have h1 := congrArg BitVec.toNat e
  have h2 := x.isLt
  simp at h1
  rw [Nat.mod_eq_of_lt (by omega)] at h1
  simpa using h1

theorem sleep_param (x : BitVec 16) (k : Cont) (h : x ≠ 0) :
    s.sleep (x.setWidth 64) k =
      some { s with cont := k, sleepUntil := some (s.now + x.setWidth 64) } :=
  sleep_pos _ _ _ (setWidth_ne_zero h)

/-! ### A run command that is accepted (R100) -/

/-- With every precondition met and nothing deferred, a run command is its pseudocode in CMD. -/
theorem issue_launch_now {i : Instr} {pre : State → Option Code} {run : State → State}
    (he : s.eng = .ready) (hp : pre s = none) (hd : s.defer = false) :
    issue i pre (launch i run) s = .next (run { s with eng := .cmd }) := by
  rw [issue_accept _ _ _ _ he hp, launch_now _ _ _ hd]

/-! ### What ends a suspension -/

/-- An allowed answer to an open or a send is taken, and the engine steps on. -/
theorem step_answer {c : Cont} {tag : Nat} {req : TpReq} {a : TpAnswer} {rest : List Move}
    (h : s.Calls c tag req (answerMove tag a) rest) (ha : req.allows s.params.rxCap a = true) :
    step s = settle { s with
      inputs := rest, defer := false, tpReq := none, resume := some (.answered a) } := by
  obtain ⟨h1, h2, h3, h4, h5, h6⟩ := h
  simp [step, nextStep, h1, h2, h3, h4, h5, h6, answerMove, performThenSettle, perform,
    transportAnswer, ha, State.inTime]

/-- An answer to a receive before its deadline is taken, and the engine steps on (R166). -/
theorem step_receive_answer {c : Cont} {tag : Nat} {d : Time} {a : TpAnswer} {rest : List Move}
    (h : s.Receives c tag d (answerMove tag a) rest) (hn : s.now < d)
    (ha : a = .timeout ∨ ∃ b, a = .bytes b ∧ b.length ≤ s.params.rxCap) :
    step s = settle { s with
      inputs := rest, defer := false, tpReq := none, rxDeadline := none
      resume := some (.answered a) } := by
  obtain ⟨h1, ⟨cap, ms, h2⟩, h3, h4, h5, h6⟩ := h
  have hok : (TpReq.recvBytes cap ms).allows s.params.rxCap a = true := by
    rcases ha with rfl | ⟨b, rfl, hb⟩ <;> simp [TpReq.allows, *]
  simp [step, nextStep, h1, h2, h3, h4, h5, h6, answerMove, performThenSettle, perform,
    transportAnswer, hok, State.inTime, hn]

/-- The tick that reaches RX_DEADLINE ends the receive, and the engine steps on (R166). -/
theorem step_receive_deadline {c : Cont} {tag : Nat} {d : Time} {rest : List Move}
    (h : s.Receives c tag d tickMove rest) (hd : d = s.now + 1) :
    step s = settle { s with
      inputs := rest, defer := false, now := s.now + 1, tpReq := none, rxDeadline := none
      resume := some .deadline } := by
  obtain ⟨h1, ⟨cap, ms, h2⟩, h3, h4, h5, h6⟩ := h
  simp [step, nextStep, h1, h2, h3, h4, h5, h6, tickMove, performThenSettle, perform, tick,
    State.wakeSleeper, State.expireRx, hd]

/-- The tick that reaches a sleep's deadline ends it, and the engine steps on (R11). -/
theorem step_wake {c : Cont} {rest : List Move} (h : s.Wakes c rest) :
    step s = settle { s with
      inputs := rest, defer := false, now := s.now + 1, sleepUntil := none
      resume := some .woke } := by
  obtain ⟨h1, h2, h3, h4, h5, h6⟩ := h
  simp [step, nextStep, h1, h2, h3, h4, h5, h6, tickMove, performThenSettle, perform, tick,
    State.wakeSleeper, State.expireRx]

/-- A released engine whose release fits its suspension point runs on to `t`. -/
theorem settle_run {r : Resume} (hr : s.resume = some r) (hd : s.defer = false)
    (hf : s.cont.fits r = true) (t : State) (ht : runFrom s.cont r { s with resume := none } = t)
    (hs : t.cont ≠ .spin) : settle s = .next t := by
  have hc : s.cont ≠ .spin := by
    rintro h
    rw [h] at hf
    simp [Cont.fits] at hf
  have he : engineMove s = .next t := by
    unfold engineMove
    rw [hr]
    simp only [hf, if_true, ht]
  unfold settle
  rw [if_neg hc, if_neg (by simp [hd]), he]
  simp [hs]

/-! ### Queries that start (R169) -/

/-- A Query whose frame fits: the frame in TXBUF, its send outstanding. -/
theorem queryBegin_fits (t : Task) (h : (s.cmdLen t.kind).toNat + 3 ≤ s.params.txCap) :
    queryBegin t s = .sent
      ((({ s with curSlot := t.slot }).loadFrame
        (requestFrame (s.slot t.slot).addr (s.payload t.kind))).tpCall
          (.sendBytes (requestFrame (s.slot t.slot).addr (s.payload t.kind))) (.querySend t)) := by
  rcases queryBegin_cases s t with ⟨f, h1, h2⟩ | ⟨h1, _⟩
  · rw [encodeFrame_payload _ _ h] at h1
    cases h1
    exact h2
  · rw [encodeFrame_payload _ _ h] at h1
    cases h1

/-- A Query whose frame overflows. -/
theorem queryBegin_overflows (t : Task) (h : s.params.txCap < (s.cmdLen t.kind).toNat + 3) :
    queryBegin t s = .overflow ({ s with curSlot := t.slot }).dropFrame := by
  rcases queryBegin_cases s t with ⟨f, h1, _⟩ | ⟨_, h2⟩
  · rw [encodeFrame_payload_none _ _ h] at h1
    cases h1
  · exact h2

/-- A send answered Ok counts SENT and starts the settle interval (R169, D10). -/
theorem queryAfterSend_settles (t : Task) (h : s.params.settleMs ≠ 0) :
    queryAfterSend t true s = .suspended { s.countSent t.slot with
      cont := .querySettle t
      sleepUntil := some (s.now + s.params.settleMs.setWidth 64) } := by
  rcases queryAfterSend_cases s t true with ⟨h1, _⟩ | ⟨_, _, h1⟩ | ⟨_, h1, _⟩
  · cases h1
  · exact h1
  · exact absurd h1 (setWidth_ne_zero h)

/-! ### The event log and the end of a Transact (R202, R306) -/

theorem fifoAfter_nil : s.fifoAfter [] = s.evtFifo := by simp [State.fifoAfter]

theorem ovfAfter_nil : s.ovfAfter [] = s.logOvf := by simp [State.ovfAfter]

/-- All that a log does, with room in the FIFO or without. -/
theorem log_eq (c : Code) (sub : Byte) (sl : SlotId) (k : Kind) :
    s.log c sub sl k = { s with
      evtFifo := s.fifoAfter [eventWord c sub sl k], logOvf := s.ovfAfter [eventWord c sub sl k]
      irqPend := s.irqPend ||| 0b100000 } := by
  unfold State.log State.fifoAfter State.ovfAfter
  by_cases h : s.evtFifo.length < s.params.logDepth
  · obtain ⟨m, hm⟩ : ∃ m, s.params.logDepth - s.evtFifo.length = m + 1 :=
      ⟨s.params.logDepth - s.evtFifo.length - 1, by omega⟩
    simp [h, hm, Irq.mask]
  · have hm : s.params.logDepth - s.evtFifo.length = 0 := by omega
    simp [h, hm, Irq.mask]

/-- Logging one more word after the words `ws`. -/
theorem fifoAfter_append {t : State} {ws : List Word} (w : Word) (hp : t.params = s.params)
    (h : t.evtFifo = s.fifoAfter ws) : t.fifoAfter [w] = s.fifoAfter (ws ++ [w]) := by
  unfold State.fifoAfter at *
  rw [h, hp, List.append_assoc, List.take_append]
  congr 3
  simp
  omega

theorem ovfAfter_append {t : State} {ws : List Word} (w : Word) (hp : t.params = s.params)
    (h : t.evtFifo = s.fifoAfter ws) (ho : t.logOvf = s.ovfAfter ws) :
    t.ovfAfter [w] = s.ovfAfter (ws ++ [w]) := by
  unfold State.ovfAfter State.fifoAfter at *
  rw [ho, h, hp, BitVec.add_assoc, ← BitVec.ofNat_add]
  congr 2
  simp
  omega

theorem keepRetry_eq (k : Kind) (sl : SlotId) :
    s.keepRetry k sl = s.setSlot sl ((s.slot sl).withRetry k s.attempts s.rstate) := by
  cases k <;> rfl

/-- What a Transact's end with no attempt left leaves (R202). -/
theorem transactExhaust_eq (k : Kind) (sl : SlotId) :
    transactExhaust k sl s = { s with
      rstate := .exhausted
      slots := (s.setSlot sl ((s.slot sl).withRetry k s.attempts .exhausted)).slots
      evtFifo := s.fifoAfter [eventWord .retriesExhausted s.lastFail.byte sl k]
      logOvf := s.ovfAfter [eventWord .retriesExhausted s.lastFail.byte sl k]
      irqPend := s.irqPend ||| 0b100000 } := by
  unfold transactExhaust
  rw [log_eq, keepRetry_eq]
  rfl

/-- The minimum-delay test of R233, in milliseconds. -/
theorem mustWait_iff :
    s.mustWait = true ↔
      s.lastValid = true ∧ (s.now - s.lastScan).toNat < s.minScanDelay.toNat * 1000 := by
  have hlt := s.minScanDelay.isLt
  have h1000 : (1000 : Time).toNat = 1000 := rfl
  have hd : (s.minScanDelay.setWidth 64 * 1000 : Time).toNat = s.minScanDelay.toNat * 1000 := by
    rw [BitVec.toNat_mul, BitVec.toNat_setWidth, h1000,
      Nat.mod_eq_of_lt (by omega : s.minScanDelay.toNat < 2 ^ 64)]
    exact Nat.mod_eq_of_lt (by omega)
  rw [State.mustWait, Bool.and_eq_true, decide_eq_true_iff, BitVec.lt_def, hd]

end Sys2Proof.Machine
end

