-- ==== Sys2Proof/Laws/Host.lean ====
section
/-! SUPPORT. For each host-access operation, one lemma that says everything it can do (20_memory.md R71
to R78), and that every step of the other agents keeps the buffers' canonical form. -/

namespace Sys2Proof.Machine

variable (s : State)

/-! ### The canonical form of the buffers -/

theorem wf_reset (p : Params) : Memory.wf (State.resetWith p).mem = true := rfl

theorem wf_putBytes (base : Nat) (bs : List Byte) (h : Memory.wf s.mem = true) :
    Memory.wf (s.putBytes base bs).mem = true := wf_setBytes _ _ _ h

theorem wf_loadFrame (f : List Byte) (h : Memory.wf s.mem = true) :
    Memory.wf (s.loadFrame f).mem = true := wf_setBytes _ _ _ h

theorem wf_storeResult (st : Byte) (p : List Byte) (h : Memory.wf s.mem = true) :
    Memory.wf (s.storeResult st p).mem = true := wf_setBytes _ _ _ h

theorem wf_takeRx (rx : Option (List Byte)) (h : Memory.wf s.mem = true) :
    Memory.wf (s.takeRx rx).mem = true := by
  cases rx with
  | none => exact h
  | some b => exact wf_setBytes _ _ _ h

theorem wf_store (k : Kind) (sl : SlotId) (p : List Byte) (h : Memory.wf s.mem = true) :
    Memory.wf (s.store k sl p).mem = true := by
  cases k <;> exact wf_setBytes _ _ _ h

/-! ### Reads -/

/-- What a read leaves: an access error, a popped event, a loaded shadow, or nothing changed (R74,
R78). -/
theorem afterMemRead_cases (a : HostAddr) (w : Width) :
    (legal s.params a w = false ∧ s.afterMemRead a w = { s with accessErr := true }) ∨
    (legal s.params a w = true ∧
      ((locate s.params a.toNat = .reg .evtPop ∧
          s.afterMemRead a w = { s with evtFifo := s.evtFifo.tail }) ∨
        (locate s.params a.toNat = .reg .nowLo ∧
          s.afterMemRead a w = { s with nowHiSh := hi32 s.now }) ∨
        (locate s.params a.toNat = .reg .lastScanLo ∧
          s.afterMemRead a w = { s with lastHiSh := hi32 s.lastScan }) ∨
        s.afterMemRead a w = s)) := by
  unfold State.afterMemRead
  cases hl : legal s.params a w with
  | false => exact .inl ⟨rfl, rfl⟩
  | true =>
    refine .inr ⟨rfl, ?_⟩
    simp only [if_true]
    cases hc : locate s.params a.toNat with
    | reg r =>
      simp only [State.afterRead]
      split_ifs with h1 h2 h3
      · subst h1; exact .inl ⟨rfl, rfl⟩
      · subst h2; exact .inr (.inl ⟨rfl, rfl⟩)
      · subst h3; exact .inr (.inr (.inl ⟨rfl, rfl⟩))
      · exact .inr (.inr (.inr rfl))
    | addrTable off => exact .inr (.inr (.inr rfl))
    | counters sl n => exact .inr (.inr (.inr rfl))
    | reading sl n => exact .inr (.inr (.inr rfl))
    | buf b off => exact .inr (.inr (.inr rfl))
    | unmapped => exact .inr (.inr (.inr rfl))

/-! ### Writes -/

/-- A write outside CMD: an access error or a locked write (ACCESS_ERR set), a register write, bus
addresses stored, bytes of a host-writable buffer stored, or nothing changed (R24, R74). -/
theorem memWrite_cases (a : HostAddr) (w : Width) (v : Word) :
    s.memWrite a w v = { s with accessErr := true } ∨
    (∃ r, locate s.params a.toNat = .reg r ∧ (r.rwl && s.locked) = false ∧
      s.memWrite a w v = s.writeReg v r) ∨
    (∃ off, locate s.params a.toNat = .addrTable off ∧ s.locked = false ∧
      s.memWrite a w v = s.putAddrs off (storedBytes v w (s.params.maxSlots - off))) ∨
    (∃ b off, locate s.params a.toNat = .buf b off ∧ b.rwl = true ∧ s.locked = false ∧
      s.memWrite a w v = s.putBytes (b.base + off) (storedBytes v w (b.size s.params - off))) ∨
    s.memWrite a w v = s := by
  unfold State.memWrite
  split_ifs with hl hk
  · exact .inl rfl
  · cases hc : locate s.params a.toNat with
    | reg r =>
      refine .inr (.inl ⟨r, rfl, ?_, rfl⟩)
      rw [hc] at hk
      simpa [Loc.rwl] using hk
    | addrTable off =>
      refine .inr (.inr (.inl ⟨off, rfl, ?_, rfl⟩))
      rw [hc] at hk
      simpa [Loc.rwl] using hk
    | counters sl n => exact .inr (.inr (.inr (.inr rfl)))
    | reading sl n => exact .inr (.inr (.inr (.inr rfl)))
    | buf b off =>
      cases hb : b.rwl with
      | true =>
        refine .inr (.inr (.inr (.inl ⟨b, off, rfl, hb, ?_, by simp [hb]⟩)))
        rw [hc] at hk
        simpa [Loc.rwl, hb] using hk
      | false => exact .inr (.inr (.inr (.inr (by simp [hb]))))
    | unmapped => exact .inr (.inr (.inr (.inr rfl)))
  · exact .inl rfl

/-- Storing bus addresses changes the slot file alone, and of each slot its address alone (R47). -/
theorem putAddrs_frame (bs : List Byte) (off : Nat) :
    { s.putAddrs off bs with slots := s.slots } = s ∧
    ∀ sl, { (s.putAddrs off bs).slot sl with addr := (s.slot sl).addr } = s.slot sl := by
  induction bs generalizing s off with
  | nil => exact ⟨rfl, fun _ => rfl⟩
  | cons b bs ih =>
    obtain ⟨h1, h2⟩ := ih
      (s.setSlot (BitVec.ofNat 5 off) { s.slot (BitVec.ofNat 5 off) with addr := b }) (off + 1)
    refine ⟨congrArg (fun t : State => { t with slots := s.slots }) h1, fun sl => ?_⟩
    have h := congrArg (fun x : Slot => { x with addr := (s.slot sl).addr }) (h2 sl)
    refine Eq.trans h ?_
    by_cases hs : BitVec.ofNat 5 off = sl
    · subst hs
      rw [slot_setSlot_same]
    · rw [slot_setSlot_ne s _ _ _ hs]

/-- What storing bus addresses leaves in a slot: the byte that falls on it, if one does (R47). -/
theorem slot_putAddrs (bs : List Byte) (off : Nat) (h : off + bs.length ≤ 32) (j : SlotId) :
    (s.putAddrs off bs).slot j = { s.slot j with
      addr := if h : off ≤ j.toNat ∧ j.toNat < off + bs.length then bs[j.toNat - off]
        else (s.slot j).addr } := by
  induction bs generalizing s off with
  | nil =>
    simp only [State.putAddrs, List.length_nil]
    rw [dif_neg (by omega)]
  | cons b bs ih =>
    simp only [List.length_cons] at h
    have hoff : (BitVec.ofNat 5 off).toNat = off := by simp; omega
    rw [State.putAddrs, ih _ _ (by omega)]
    by_cases hj : j = BitVec.ofNat 5 off
    · subst hj
      rw [slot_setSlot_same]
      simp only [hoff]
      rw [dif_neg (by omega), dif_pos (by simp)]
      simp
    · have hne : j.toNat ≠ off := fun e => hj (BitVec.eq_of_toNat_eq (by rw [e, hoff]))
      rw [slot_setSlot_ne s _ _ _ (Ne.symm hj)]
      by_cases hc : off + 1 ≤ j.toNat ∧ j.toNat < off + 1 + bs.length
      · rw [dif_pos hc, dif_pos (by simp; omega)]
        rw [List.getElem_cons, dif_neg (by omega)]
        congr 1
      · rw [dif_neg hc, dif_neg (by simp; omega)]

/-- A host write keeps the canonical form of the buffers. -/
theorem wf_memWrite (a : HostAddr) (w : Width) (v : Word) (h : Memory.wf s.mem = true) :
    Memory.wf (s.memWrite a w v).mem = true := by
  rcases memWrite_cases s a w v with e | ⟨r, _, _, e⟩ | ⟨off, _, _, e⟩ | ⟨b, off, _, _, _, e⟩ | e
  · rw [e]; exact h
  · rw [e]; cases r <;> exact h
  · rw [e]
    have hf := congrArg State.mem
      (putAddrs_frame s (storedBytes v w (s.params.maxSlots - off)) off).1
    simpa [← hf] using h
  · rw [e]; exact wf_putBytes _ _ _ h
  · rw [e]; exact h

/-! ### The timebase -/

/-- A tick: NOW + 1, and the deadline it reaches, if any (R11, R50, R166). -/
theorem tick_cases :
    tick s = { s with now := s.now + 1 } ∨
    (∃ d, s.sleepUntil = some d ∧ d ≤ s.now + 1 ∧
      (tick s = { s with now := s.now + 1, sleepUntil := none, resume := some .woke } ∨
        (s.rxDeadline = some (s.now + 1) ∧
          tick s = { s with now := s.now + 1, sleepUntil := none, tpReq := none
                            rxDeadline := none, resume := some .deadline }))) ∨
    (s.rxDeadline = some (s.now + 1) ∧
      tick s = { s with now := s.now + 1, tpReq := none, rxDeadline := none
                        resume := some .deadline }) := by
  unfold tick State.wakeSleeper
  cases hs : s.sleepUntil with
  | none =>
    simp only [State.expireRx]
    cases hr : s.rxDeadline with
    | none => exact .inl rfl
    | some d =>
      simp only
      split_ifs with h
      · subst h; exact .inr (.inr ⟨rfl, rfl⟩)
      · exact .inl rfl
  | some d =>
    simp only
    split_ifs with h
    · refine .inr (.inl ⟨d, rfl, h, ?_⟩)
      simp only [State.expireRx]
      cases hr : s.rxDeadline with
      | none => exact .inl rfl
      | some e =>
        simp only
        split_ifs with h2
        · subst h2; exact .inr ⟨rfl, rfl⟩
        · exact .inl rfl
    · simp only [State.expireRx]
      cases hr : s.rxDeadline with
      | none => exact .inl rfl
      | some e =>
        simp only
        split_ifs with h2
        · subst h2; exact .inr (.inr ⟨rfl, rfl⟩)
        · exact .inl rfl

end Sys2Proof.Machine
end

