-- ==== Sys2Proof/Laws/PerInstr.lean ====
section
/-! SUPPORT. The families of statements made for every command, one lemma per constructor of `Instr`. -/

/-- R120: the assembler's line of a command, assembled, is the command again: no operand is refused,
truncated or swapped. -/
def Sys2Proof.Laws.Assembles.Statement (i : Sys2Proof.Instr) : Prop := i.line.assemble = some i

namespace Sys2Proof.Laws.Assembles

open Sys2Proof

theorem encode (k : Kind) (a : Byte) : Statement (.encode k a) := by
  simp [Statement, Instr.line, Line.assemble, Line.wellFormed, Line.toInstr, a.isLt]

theorem verify : Statement .verify := rfl

theorem decode : Statement .decode := rfl

theorem openTp : Statement .openTp := rfl

theorem closeTp : Statement .closeTp := rfl

theorem send : Statement .send := rfl

theorem recv : Statement .recv := rfl

theorem flush : Statement .flush := rfl

theorem query (k : Kind) (sl : SlotId) : Statement (.query k sl) := by
  simp [Statement, Instr.line, Line.assemble, Line.wellFormed, Line.toInstr, sl.isLt]

theorem transactSn (sl : SlotId) : Statement (.transactSn sl) := by
  simp [Statement, Instr.line, Line.assemble, Line.wellFormed, Line.toInstr, sl.isLt]

theorem transactMeas (sl : SlotId) : Statement (.transactMeas sl) := by
  simp [Statement, Instr.line, Line.assemble, Line.wellFormed, Line.toInstr, sl.isLt]

theorem scanStart : Statement .scanStart := rfl

theorem shutdown : Statement .shutdown := rfl

theorem resultAck (c : Byte) : Statement (.resultAck c) := by
  simp [Statement, Instr.line, Line.assemble, Line.wellFormed, Line.toInstr, c.isLt]

theorem delay (ms : BitVec 24) : Statement (.delay ms) := by
  simp [Statement, Instr.line, Line.assemble, Line.wellFormed, Line.toInstr, ms.isLt]

end Sys2Proof.Laws.Assembles
end

