-- ==== Sys2Proof/Tests/Slice0.lean ====
section
/-! SUPPORT. The model's own tests. Every expected value is the spec's: the formats of R101 for the words,
the vectors of 95_test_vectors.md (named V-…) for the rest. Last come the witnesses: for every
statement with hypotheses, a concrete state and operands that meet them. -/

namespace Sys2Proof.Tests

open Sys2Proof Sys2Proof.Machine

/-! ### Words (R101 to R105) -/

theorem test_refuses_encode_addr : Line.assemble (.encode .sn 256) = none := by decide
theorem test_refuses_query_slot : Line.assemble (.query .meas 32) = none := by decide
theorem test_refuses_transactSn_slot : Line.assemble (.transactSn 32) = none := by decide
theorem test_refuses_transactMeas_slot : Line.assemble (.transactMeas 32) = none := by decide
theorem test_refuses_resultAck_code : Line.assemble (.resultAck 256) = none := by decide
theorem test_refuses_delay_ms : Line.assemble (.delay 16777216) = none := by decide

theorem test_assembles_delay : (Line.assemble (.delay 485)).map encode = some 0x0001E50E := by decide

theorem test_word_encode :
    decode 0b0000000_1_000_00000_00000010_00000001#32 = .ok (.encode .meas 2) := by decide
theorem test_word_verify :
    decode 0b0000000_0_000_00000_00000000_00000010#32 = .ok .verify := by decide
theorem test_word_decode :
    decode 0b0000000_0_000_00000_00000000_00000011#32 = .ok .decode := by decide
theorem test_word_open :
    decode 0b0000000_0_000_00000_00000000_00000100#32 = .ok .openTp := by decide
theorem test_word_close :
    decode 0b0000000_0_000_00000_00000000_00000101#32 = .ok .closeTp := by decide
theorem test_word_send :
    decode 0b0000000_0_000_00000_00000000_00000110#32 = .ok .send := by decide
theorem test_word_recv :
    decode 0b0000000_0_000_00000_00000000_00000111#32 = .ok .recv := by decide
theorem test_word_flush :
    decode 0b0000000_0_000_00000_00000000_00001000#32 = .ok .flush := by decide
theorem test_word_query :
    decode 0b0000000_1_000_10010_00000000_00001001#32 = .ok (.query .meas 18) := by decide
theorem test_word_transactSn :
    decode 0b0000000_0_000_11111_00000000_00001010#32 = .ok (.transactSn 31) := by decide
theorem test_word_transactMeas :
    decode 0b0000000_1_000_00101_00000000_00001010#32 = .ok (.transactMeas 5) := by decide
theorem test_word_scanStart :
    decode 0b0000000_0_000_00000_00000000_00001011#32 = .ok .scanStart := by decide
theorem test_word_shutdown :
    decode 0b0000000_0_000_00000_00000000_00001100#32 = .ok .shutdown := by decide
theorem test_word_resultAck :
    decode 0b0000000_0_000_00000_10000010_00001101#32 = .ok (.resultAck 0x82) := by decide
theorem test_word_delay :
    decode 0b1000000_0_000_00001_11100101_00001110#32 = .ok (.delay 0x8001E5) := by decide

/-- R75: the first byte is bits [7:0]. -/
theorem test_bytes_delay : decodeBytes [0x0E, 0xE5, 0x01, 0x00] = .ok (.delay 485) := by decide
theorem test_bytes_length : decodeBytes [0x0E, 0xE5, 0x01] = .error (.wrongLength 3) := by decide

/-- V-K8, V-K9, and a set bit between the SLOT field and KIND. -/
theorem test_words_refused :
    decode 0x0000000F = .error (.reservedOp 0x0F) ∧ decode 0 = .error (.reservedOp 0) ∧
    decode 0x00000102 = .error (.mustBeZero 0x02) ∧
    decode 0x00200009 = .error (.mustBeZero 0x09) := by decide

theorem test_table_word :
    decodeTableWord 32 0x0100000A = some (.transactMeas 0) ∧ decodeTableWord 32 0x10F = none := by
  decide

/-! ### The pure functions of the codec -/

/-- V-C1, V-C2, V-C3, V-C6, V-C7. -/
theorem test_encodeFrame :
    encodeFrame 2200 [0x41, 0x42] 0x01 = some [0x81, 0x41, 0x42, 0x03, 0x00] ∧
    encodeFrame 2200 [] 0x01 = some [0x81, 0x03, 0x03] ∧
    encodeFrame 2200 [0x52] 0x81 = some [0x81, 0x52, 0x03, 0x51] ∧
    encodeFrame 2200 [0x41, 0x03] 0x05 = some [0x85, 0x41, 0x03, 0x03, 0x41] ∧
    encodeFrame 2200 [0x80, 0xFF] 0x7F = some [0xFF, 0x80, 0xFF, 0x03, 0x7C] ∧
    encodeFrame 4 [0x41, 0x42] 0x01 = none := by decide

/-- V-D1, V-D2, V-D6 to V-D11. -/
theorem test_decodeFrame :
    decodeFrame [0x06, 0x32, 0x33, 0x2E, 0x35, 0x03, 0x1F] =
      .ok 0x06 [0x32, 0x33, 0x2E, 0x35] 0x1F ∧
    decodeFrame [0x15, 0x32, 0x33, 0x2E, 0x35, 0x03, 0x0C] =
      .ok 0x15 [0x32, 0x33, 0x2E, 0x35] 0x0C ∧
    decodeFrame [] = .empty ∧ decodeFrame [0x00] = .ok 0x00 [] 0x00 ∧
    decodeFrame [0x05] = .mismatch 0x00 ∧ decodeFrame [0x06, 0x06] = .ok 0x06 [] 0x06 ∧
    decodeFrame [0x06, 0x03, 0x05] = .ok 0x06 [] 0x05 ∧
    decodeFrame [0x06, 0x41, 0x42, 0x05] = .ok 0x06 [0x41, 0x42] 0x05 := by decide

/-- V-D12 to V-D15, V-D17. -/
theorem test_decodeFrame_body :
    decodeFrame [0x03, 0x41, 0x42, 0x03, 0x03] = .ok 0x03 [0x41, 0x42] 0x03 ∧
    decodeFrame [0x06, 0x41, 0x07, 0x42, 0x03, 0x01] = .ok 0x06 [0x41, 0x42] 0x01 ∧
    decodeFrame [0x06, 0x41, 0x03, 0x42, 0x06] = .ok 0x06 [0x41] 0x06 ∧
    decodeFrame [0x06, 0x33, 0x33, 0x2E, 0x35, 0x03, 0x1F] = .mismatch 0x1E ∧
    decodeFrame [0x81, 0x41, 0x42, 0x03, 0x00] = .mismatch 0x81 := by decide

/-! ### States the tests start from -/

/-- DOC0's build with short delays (and DOC0's capacities). -/
def build : Params := { settleMs := 2, rxTimeoutMs := 3, paceMs := 1, pollMs := 2 }

/-- READY, the transport open, slots 0 and 1 configured at addresses 1 and 2, CMDBUF0 = "S" and CMDBUF1
= "M" (V-S and V-R's setup). -/
def ready : State :=
  { State.resetWith build with
    tpOpen := true, numAddr := 2, cmdLen0 := 1, cmdLen1 := 1
    mem := [(0x3000, 0x53), (0x4000, 0x4D)]
    slots := ((Vector.replicate 32 ({} : Slot)).set 0 { addr := 1 }).set 1 { addr := 2 } }

/-- The same with the transport closed. -/
def closed : State := { ready with tpOpen := false }

/-- RXBUF holds `b`. -/
def holding (b : List Byte) : State := { ready with rxLen := BitVec.ofNat 9 b.length }.putBytes 0x2000 b

/-- Suspended at `c` on a request, which the next step of the schedule answers with `a`. -/
def answered (s : State) (c : Cont) (req : TpReq) (a : TpAnswer) : State :=
  { s with eng := .cmd, cont := c, tpReq := some ⟨7, req⟩, tpSeq := 8, inputs := [answerMove 7 a] }

/-- Suspended at `c` in a receive, one tick before its deadline; then comes `m`. -/
def receiving (s : State) (c : Cont) (m : Move) : State :=
  { s with eng := .cmd, cont := c, tpReq := some ⟨7, .recvBytes 255 3⟩, tpSeq := 8, now := 2
           rxDeadline := some 3, inputs := [m] }

/-- Asleep at `c` until the tick that comes next. -/
def sleeping (s : State) (c : Cont) : State :=
  { s with eng := .cmd, cont := c, now := 1, sleepUntil := some 2, inputs := [tickMove] }

/-- Whether a result is a next state that `p` holds of. -/
def after (r : Result) (p : State → Bool) : Bool :=
  match r with
  | .next t => p t
  | .fault _ => false
  | .refused _ => false

/-! ### One step of each command -/

/-- V-C10. -/
theorem test_encode :
    after (exec (.encode .sn 1) ({ ready with cmdLen0 := 2 }.putBytes 0x3000 [0x41, 0x42]))
      (fun t => t.bytesAt 0x1000 5 == [0x81, 0x41, 0x42, 0x03, 0x00] && t.txLen == 5 && t.txValid &&
        t.chk.calcd == 0 && t.errWord == 0 && t.irqPend == 0x01) = true := by decide

/-- V-C12. -/
theorem test_encode_overflow :
    after (exec (.encode .sn 1) { ready with cmdLen0 := 2198, txValid := true, txLen := 5 })
      (fun t => t.errWord == 0x01 && !t.txValid && t.txLen == 0 && t.irqPend == 0x03) = true := by
  decide +kernel

/-- V-C14. -/
theorem test_verify :
    after (exec .verify (holding [0x06, 0x32, 0x33, 0x03, 0x04]))
      (fun t => t.chkWord == 0x0404 && t.errWord == 0) = true := by decide

/-- V-C15. -/
theorem test_verify_mismatch :
    after (exec .verify (holding [0x06, 0x32, 0x33, 0x03, 0x05]))
      (fun t => t.chkWord == 0x0504 && t.errWord == 0x04) = true := by decide

/-- V-C18. -/
theorem test_decode :
    after (exec .decode (holding [0x06, 0x32, 0x33, 0x2E, 0x35, 0x03, 0x1F]))
      (fun t => t.respStatus == 0x06 && t.bytesAt 0x2100 4 == [0x32, 0x33, 0x2E, 0x35] &&
        t.resultLen == 4 && t.chkWord == 0x1F1F && t.errWord == 0) = true := by decide

/-- V-C19. -/
theorem test_decode_mismatch :
    after (exec .decode (holding [0x06, 0x33, 0x33, 0x2E, 0x35, 0x03, 0x1F]))
      (fun t => t.errWord == 0x04 && t.chkWord == 0x1F1E && t.respStatus == 0 &&
        t.resultLen == 0) = true := by decide

/-- V-S2. -/
theorem test_open_open :
    after (exec .openTp ready) (fun t => t.rejWord == 0x040B && t.irqPend == 0x04) = true := by decide

/-- V-S15. -/
theorem test_open_fail :
    after (step (answered closed .openAns (.openLine 19200 8 .none .one) .fail))
      (fun t => t.errWord == 0x09 && !t.tpOpen && decide (t.eng = .ready)) = true := by decide

/-- V-S14. -/
theorem test_close_closed :
    after (exec .closeTp closed)
      (fun t => t.errWord == 0 && !t.tpOpen && t.tpLog.isEmpty && t.irqPend == 0x01) = true := by
  decide

/-- R161's example. -/
theorem test_close_open :
    after (exec .closeTp ready)
      (fun t => t.errWord == 0 && !t.tpOpen && t.tpLog == [.closeLine]) = true := by decide

/-- V-S13. -/
theorem test_send_no_frame :
    after (exec .send ready) (fun t => t.rejWord == 0x060F) = true := by decide

/-- R162's example: the frame is handed over whole. -/
theorem test_send :
    after (exec .send ({ ready with txValid := true, txLen := 3 }.putBytes 0x1000 [0x82, 0x03, 0x03]))
      (fun t => t.tpLog == [.sendBytes [0x82, 0x03, 0x03]] && t.busy) = true := by decide

/-- V-S11. -/
theorem test_recv :
    after (step (receiving ready .recvAns (answerMove 7 (.bytes [0x06, 0x32, 0x33, 0x03, 0x04]))))
      (fun t => t.bytesAt 0x2000 5 == [0x06, 0x32, 0x33, 0x03, 0x04] && t.rxLen == 5 &&
        t.errWord == 0 && t.now == 2) = true := by decide

/-- V-S12: the tick that reaches RX_DEADLINE comes first. -/
theorem test_recv_deadline :
    after (step (receiving ready .recvAns tickMove))
      (fun t => t.errWord == 0x03 && t.rxLen == 0 && t.now == 3 && t.tpReq.isNone) = true := by
  decide

/-- V-S9. -/
theorem test_flush :
    after (step (receiving { ready with rxLen := 4 } .flushAns (answerMove 7 (.bytes [0xFF]))))
      (fun t => t.errWord == 0 && t.rxLen == 4 && t.mem == ready.mem) = true := by decide

/-- V-S10. -/
theorem test_flush_deadline :
    after (step (receiving ready .flushAns tickMove))
      (fun t => t.errWord == 0 && t.irqPend == 0x01 && t.now == 3) = true := by decide

/-- V-S1. -/
theorem test_query_closed :
    after (exec (.query .meas 0) closed) (fun t => t.rejWord == 0x090B) = true := by decide

/-- V-S6: a NAK is a decoded answer, and QUERY does not count it. -/
theorem test_query_nak :
    after (step (receiving ready (.queryRecv (.query .meas 0))
        (answerMove 7 (.bytes [0x15, 0x32, 0x33, 0x2E, 0x35, 0x03, 0x0C]))))
      (fun t => t.errWord == 0x01000000 && t.respStatus == 0x15 && (t.slot 0).nakc == 0 &&
        (t.slot 0).recv == 1) = true := by decide

/-- V-R11. -/
theorem test_transactSn_no_retries :
    after (exec (.transactSn 0) { ready with maxRetries := 0 }) (fun t => t.rejWord == 0x0A0E) =
      true := by decide

/-- V-R9's second attempt. -/
theorem test_transactSn_success :
    after (step (receiving { ready with attempts := 2, rstate := .naked }
        (.queryRecv (.transact .sn 0 .host)) (answerMove 7 (.bytes [0x82, 0x4F, 0x4B, 0x03, 0x85]))))
      (fun t => t.attempts == 2 && decide (t.rstate = .succeeded) &&
        t.bytesAt 0x8000 2 == [0x4F, 0x4B] && (t.slot 0).snLen == 2 && t.errWord == 0 &&
        (t.slot 0).retryWord == 0x00020002) = true := by decide

/-- V-R7. -/
theorem test_transactMeas_overflow :
    after (exec (.transactMeas 0) { ready with cmdLen1 := 2198 })
      (fun t => t.attempts == 1 && decide (t.rstate = .failed) && (t.slot 0).sent == 0 &&
        !t.txValid && t.errWord == 0x01000001 && t.evtFifo == [0x01000001]) = true := by
  decide +kernel

/-- V-R4's last attempt. -/
theorem test_transactMeas_last_nak :
    after (step (receiving { ready with attempts := 25, rstate := .naked }
        (.queryRecv (.transact .meas 0 .host))
        (answerMove 7 (.bytes [0x15, 0x32, 0x33, 0x2E, 0x35, 0x03, 0x0C]))))
      (fun t => decide (t.rstate = .exhausted) && (t.slot 0).nakc == 1 &&
        t.errWord == 0x01000508 && t.evtFifo == [0x01000508] && t.fresh == 0) = true := by decide

/-- V-T2. -/
theorem test_scanStart_same_address :
    after (exec .scanStart (closed.setSlot 1 { addr := 0x81 })) (fun t => t.rejWord == 0x0B0E) =
      true := by decide

/-- V-T4. -/
theorem test_scanStart :
    after (exec .scanStart { closed with err := ⟨.noFrame, .none, 0, .sn⟩ })
      (fun t => t.unbounded && t.remaining == 0 && t.errWord == 0 && t.irqPend == 0x01 &&
        decide (t.sstate = .waiting) && t.tpLog == [.openLine 19200 8 .none .one] &&
        t.schedActive && !t.busy) = true := by decide

/-- V-K5. -/
theorem test_shutdown :
    after (exec .shutdown { sleeping ready (.querySettle (.transact .sn 0 .scan)) with
        eng := .sched, sstate := .scanning })
      (fun t => t.isHalted && !t.tpOpen && t.tpLog == [.closeLine] && decide (t.sstate = .halted) &&
        !t.schedActive && t.irqPend == 0 && t.sleepUntil.isNone) = true := by decide

/-- V-K6. -/
theorem test_shutdown_halted :
    exec .shutdown { closed with eng := .halted } = .next { closed with eng := .halted } := rfl

/-- The scheduler waiting for the acknowledgement of slot 0's record; slot 1 is FRESH too. -/
def presenting : State :=
  { ready with eng := .sched, cont := .schedAck, sstate := .writing, recPend := true, recSlot := 0
               recNext := 1, fresh := 0b11 }

/-- V-T8. -/
theorem test_resultAck :
    after (step { presenting with inputs := [issueMove 0x0000020D] })
      (fun t => t.evtFifo == [0x0000020A] && t.recPend && t.recSlot == 1 && t.irqPend == 0x28) =
      true := by decide

/-- V-T9. -/
theorem test_resultAck_none :
    after (exec (.resultAck 0) ready) (fun t => t.rejWord == 0x0D10) = true := by decide

/-- V-K3: the last tick of the wait. -/
theorem test_delay :
    after (step { ready with eng := .cmd, cont := .delaying, now := 1484, sleepUntil := some 1485
                             inputs := [tickMove] })
      (fun t => t.now == 1485 && t.errWord == 0 && !t.busy && t.irqPend == 0x01) = true := by decide

/-- V-K4. -/
theorem test_delay_zero :
    after (exec (.delay 0) ready) (fun t => t.now == 0 && t.errWord == 0 && t.irqPend == 0x01) =
      true := by decide

/-! ### Issue, host accesses, interrupts and the log -/

/-- V-K7, V-K8, V-K9, V-T6. -/
theorem test_rejections :
    after (hostWrite 4 .word 0x00000101 { ready with eng := .halted })
      (fun t => t.rejWord == 0x0111) = true ∧
    after (hostWrite 4 .word 0x0000000F ready) (fun t => t.rejWord == 0x0F0C) = true ∧
    after (hostWrite 4 .word 0x00000102 ready) (fun t => t.rejWord == 0x020C) = true ∧
    after (hostWrite 4 .word 0x00000101 { ready with eng := .sched })
      (fun t => t.rejWord == 0x010D) = true := by decide

/-- V-T7: NUM_ADDR while the scheduler runs. -/
theorem test_locked :
    ({ ready with eng := .sched }.memWrite 0x40 .word 9).accessErr = true ∧
    ({ ready with eng := .sched }.memWrite 0x40 .word 9).numAddr = 2 := by decide

/-- V-E1, V-E2. -/
theorem test_interrupts :
    { ready with irqPend := 0x03, irqEn := 0x02 }.irqOut = true ∧
    ({ ready with irqPend := 0x03 }.memWrite 0x14 .word 0x01).irqPend = 0x02 := by decide

/-- V-E3, at a depth of 1. -/
theorem test_log_full :
    let s : State := { ready with params := { build with logDepth := 1 }, evtFifo := [7] }
    (s.log .timeoutError 0 0 .sn).evtFifo = [7] ∧ (s.log .timeoutError 0 0 .sn).logOvf = 1 ∧
    (s.log .timeoutError 0 0 .sn).irqPend = 0x20 := by decide

/-- V-E4. -/
theorem test_event_pop :
    (hostRead 0x64 .word { ready with evtFifo := [5, 6] }).hostData = 5 ∧
    (hostRead 0x64 .word { ready with evtFifo := [5, 6] }).evtFifo = [6] ∧
    (hostRead 0x64 .word ready).hostData = 0 := by decide

/-- V-E5, V-E6. -/
theorem test_access_errors :
    (hostRead 0x08 .half ready).hostData = 0 ∧ (hostRead 0x08 .half ready).accessErr = true ∧
    (hostRead 0x74 .word ready).hostData = 0 ∧ (hostRead 0x74 .word ready).accessErr = true := by
  decide

/-- V-E7. -/
theorem test_little_endian :
    (holding [0x06, 0x32, 0x33, 0x03]).memRead 0x2000 .word = 0x03333206 := by decide

/-- V-E8. -/
theorem test_now_shadow :
    let s := hostRead 0x20 .word { ready with now := 0x100000005 }
    s.hostData = 5 ∧ s.memRead 0x24 .word = 1 := by decide

/-- R74, R75: a word over the end of RXBUF, and one over slots 0 to 3 of ADDR_TABLE. -/
theorem test_word_writes :
    (ready.memWrite 0x20FC .word 0x44332211).memRead 0x20FC .word = 0x00332211 ∧
    ((ready.memWrite 0x0100 .word 0x44332211).slot 3).addr = 0x44 := by decide

/-- R34: the shadow of LAST_SCAN; R47: the RETRY word and TS of the last slot. -/
theorem test_last_scan_shadow :
    let s := hostRead 0x28 .word { ready with lastScan := 0x200000007 }
    s.hostData = 7 ∧ s.memRead 0x2C .word = 2 := by decide

theorem test_slot_words :
    let s := ready.setSlot 31
      { snAtt := 2, measAtt := 25, snRState := .succeeded, measRState := .exhausted
        ts := 0x300000004 }
    s.memRead 0x03FC .word = 0x00521902 ∧ s.memRead 0x05F0 .word = 4 ∧ s.memRead 0x05F4 .word = 3 := by
  decide

/-- V-E9, and R46's five other words. -/
theorem test_reset_registers :
    State.reset.memRead 0x00 .word = 0x58435601 ∧ State.reset.memRead 0x30 .word = 0x19 ∧
    State.reset.memRead 0x80 .word = 0x006401E5 ∧ State.reset.memRead 0x84 .word = 0x00FA0064 ∧
    State.reset.memRead 0x88 .word = 0x10000898 ∧ State.reset.memRead 0x8C .word = 0x48004B00 ∧
    State.reset.memRead 0x90 .word = 0x102000FF ∧ State.reset.memRead 0x94 .word = 0x19 := by
  decide

/-- The host's interface: a word placed by `withFetchWord` runs as the first step after reset. -/
theorem test_withFetchWord :
    after (step (State.reset.withFetchWord 32 0x0E)) (fun t => t.irqPend == 0x01 && t.inputs.isEmpty) =
      true := by decide

/-! ### Witnesses: the hypotheses of the statements can be met -/

/-- A response that decodes, of one byte (V-D7). -/
theorem witness_SingleBitFlipDetected : decodeFrame [0x00] = .ok 0x00 [] 0x00 := by decide

theorem witness_RequestFrameNeverValidResponse :
    encodeFrame 4 [0x4D] 0x02 = some [0x82, 0x4D, 0x03, 0x4E] := by decide

theorem witness_ResponseRoundTrip : ∀ b ∈ [(0x00 : Byte), 0x09, 0x0D, 0x20, 0x7E], keepByte b = true := by
  decide

theorem witness_DecodeIsInverseOfEncode :
    (Instr.delay 0xFFFFFF).wellFormed = true ∧ encode (.delay 0xFFFFFF) = 0xFFFFFF0E := by decide

/-- One word per disjunct, at the edge of its range. -/
theorem witness_ReservedWordsRejected :
    (0x00000000 : Word).extractLsb' 0 8 = (0x00 : Byte) ∧
    0x0F ≤ ((0x0000000F : Word).extractLsb' 0 8).toNat ∧
    (((0x0000010C : Word).extractLsb' 0 8).toNat ∈
        [0x02, 0x03, 0x04, 0x05, 0x06, 0x07, 0x08, 0x0B, 0x0C] ∧
      (0x0000010C : Word) &&& 0xFFFFFF00 ≠ 0) ∧
    (((0x02000001 : Word).extractLsb' 0 8).toNat = 0x01 ∧ (0x02000001 : Word) &&& 0xFEFF0000 ≠ 0) ∧
    (((0x0020000A : Word).extractLsb' 0 8).toNat ∈ [0x09, 0x0A] ∧
      (0x0020000A : Word) &&& 0xFEE0FF00 ≠ 0) ∧
    (((0x0001000D : Word).extractLsb' 0 8).toNat = 0x0D ∧ (0x0001000D : Word) &&& 0xFFFF0000 ≠ 0) := by
  decide

theorem witness_StepRunsDecodedCommand :
    { ready with inputs := [issueMove 0x0000000E] }.inputs = [⟨.write 0x0004 .word 0x0000000E, false⟩] ∧
    decode 0x0000000E = .ok (.delay 0) := by decide

theorem witness_ResetFromAnyMode :
    { answered ready .openAns (.openLine 19200 8 .none .one) .ok with
        inputs := [⟨.reset, false⟩] }.inputs = [⟨.reset, false⟩] ∧
    { answered ready .openAns (.openLine 19200 8 .none .one) .ok with
        inputs := [⟨.reset, false⟩] }.tpReq = some ⟨7, .openLine 19200 8 .none .one⟩ ∧ 7 < 8 := by
  decide

/-- READY with the schedule not deferring: a payload beyond CMDBUF_CAP, one beyond TX_CAP - 3, and
TX_CAP - 3 itself. -/
theorem witness_EncodeCommandBuildsFrame :
    ready.eng = .ready ∧ ready.defer = false ∧
    ready.params.cmdBufCap < (State.cmdLen { ready with cmdLen0 := 4097 } .sn).toNat ∧
    ((State.cmdLen { ready with cmdLen0 := 2198 } .sn).toNat ≤ ready.params.cmdBufCap ∧
      ready.params.txCap < (State.cmdLen { ready with cmdLen0 := 2198 } .sn).toNat + 3) ∧
    (State.cmdLen { ready with cmdLen0 := 2197 } .sn).toNat + 3 ≤ ready.params.txCap := by decide

theorem witness_VerifyCommandChecks :
    ready.params.rxCap < { ready with rxLen := 256 }.rxLen.toNat ∧ ready.rxLen = 0 ∧
    ({ ready with rxLen := 255 }.rxLen.toNat ≤ ready.params.rxCap ∧
      { ready with rxLen := 255 }.rxLen ≠ 0) := by decide

theorem witness_DecodeCommandUnpacks :
    ready.params.rxCap < { ready with rxLen := 256 }.rxLen.toNat ∧ ready.rxLen = 0 ∧
    decodeFrame (holding [0x05]).rxBytes = .mismatch 0x00 ∧
    decodeFrame (holding [0x00]).rxBytes = .ok 0x00 [] 0x00 ∧
    (holding [0x00]).eng = .ready ∧ (holding [0x00]).defer = false := by decide

theorem answered_calls (s : State) (c : Cont) (req : TpReq) (a : TpAnswer) (hd : s.rxDeadline = none)
    (hs : s.sleepUntil = none) (hr : s.resume = none) :
    (answered s c req a).Calls c 7 req (answerMove 7 a) [] := ⟨rfl, rfl, hd, hs, hr, rfl⟩

theorem receiving_receives (s : State) (c : Cont) (m : Move) (hs : s.sleepUntil = none)
    (hr : s.resume = none) : (receiving s c m).Receives c 7 3 m [] :=
  ⟨rfl, ⟨_, _, rfl⟩, rfl, hs, hr, rfl⟩

theorem sleeping_wakes (s : State) (c : Cont) (ht : s.tpReq = none) (hd : s.rxDeadline = none)
    (hr : s.resume = none) : (sleeping s c).Wakes c [] := ⟨rfl, rfl, ht, hd, hr, rfl⟩

theorem witness_OpenCommandOpens :
    (ready.eng = .ready ∧ ready.defer = false ∧ ready.tpOpen = true) ∧
    (closed.eng = .ready ∧ closed.defer = false ∧ closed.tpOpen = false) ∧
    (answered closed .openAns (.openLine 19200 8 .none .one) .ok).Calls .openAns 7
      (.openLine 19200 8 .none .one) (answerMove 7 .ok) [] ∧
    (answered closed .openAns (.openLine 19200 8 .none .one) .fail).Calls .openAns 7
      (.openLine 19200 8 .none .one) (answerMove 7 .fail) [] :=
  ⟨by decide, by decide, answered_calls _ _ _ _ rfl rfl rfl, answered_calls _ _ _ _ rfl rfl rfl⟩

theorem witness_CloseCommandCloses :
    (ready.eng = .ready ∧ ready.defer = false ∧ ready.tpOpen = true) ∧
    (closed.eng = .ready ∧ closed.defer = false ∧ closed.tpOpen = false) := by decide

theorem witness_SendCommandSends :
    (closed.eng = .ready ∧ closed.tpOpen = false) ∧ (ready.tpOpen = true ∧ ready.txValid = false) ∧
    ({ ready with txValid := true }.tpOpen = true ∧ { ready with txValid := true }.txValid = true) ∧
    (answered ready .sendAns (.sendBytes [0x82]) .ok).Calls .sendAns 7 (.sendBytes [0x82])
      (answerMove 7 .ok) [] ∧
    (answered ready .sendAns (.sendBytes [0x82]) .fail).Calls .sendAns 7 (.sendBytes [0x82])
      (answerMove 7 .fail) [] :=
  ⟨by decide, by decide, by decide, answered_calls _ _ _ _ rfl rfl rfl,
    answered_calls _ _ _ _ rfl rfl rfl⟩

/-- A transport closed, a timeout, no timeout; then an answer of RX_CAP bytes in the last tick before the
deadline, Timeout, and the deadline's tick. -/
theorem witness_RecvCommandReceives :
    closed.tpOpen = false ∧ (ready.tpOpen = true ∧ ready.params.rxTimeoutMs ≠ 0) ∧
    { ready with params := { build with rxTimeoutMs := 0 } }.params.rxTimeoutMs = 0 ∧
    ((receiving ready .recvAns (answerMove 7 (.bytes (List.replicate 255 0)))).Receives .recvAns 7 3
        (answerMove 7 (.bytes (List.replicate 255 0))) [] ∧
      (receiving ready .recvAns (answerMove 7 (.bytes (List.replicate 255 0)))).now < 3 ∧
      (List.replicate 255 (0 : Byte)).length ≤ build.rxCap) ∧
    (receiving ready .recvAns (answerMove 7 .timeout)).Receives .recvAns 7 3 (answerMove 7 .timeout) [] ∧
    ((receiving ready .recvAns tickMove).Receives .recvAns 7 3 tickMove [] ∧
      (3 : Time) = (receiving ready .recvAns tickMove).now + 1) :=
  ⟨by decide, by decide, by decide,
    ⟨receiving_receives _ _ _ rfl rfl, by decide, by rw [List.length_replicate]; decide⟩,
    receiving_receives _ _ _ rfl rfl, receiving_receives _ _ _ rfl rfl, by decide⟩

theorem witness_FlushCommandDiscards :
    closed.tpOpen = false ∧ (ready.tpOpen = true ∧ ready.params.rxTimeoutMs ≠ 0) ∧
    { ready with params := { build with rxTimeoutMs := 0 } }.params.rxTimeoutMs = 0 ∧
    (receiving ready .flushAns (answerMove 7 (.bytes [0xFF]))).Receives .flushAns 7 3
      (answerMove 7 (.bytes [0xFF])) [] ∧
    (receiving ready .flushAns (answerMove 7 .timeout)).Receives .flushAns 7 3
      (answerMove 7 .timeout) [] ∧
    ((receiving ready .flushAns tickMove).Receives .flushAns 7 3 tickMove [] ∧
      (3 : Time) = (receiving ready .flushAns tickMove).now + 1) :=
  ⟨by decide, by decide, by decide, receiving_receives _ _ _ rfl rfl,
    receiving_receives _ _ _ rfl rfl, receiving_receives _ _ _ rfl rfl, by decide⟩

/-- The last configured slot, with a frame one byte too long and a frame of TX_CAP bytes. -/
theorem witness_QueryCommandSends :
    ready.tpOpen = true ∧ ready.numAddr.toNat ≤ ready.params.maxSlots ∧
    (1 : SlotId).toNat < ready.numAddr.toNat ∧
    (State.cmdLen { ready with cmdLen1 := 2198 } .meas).toNat ≤ ready.params.cmdBufCap ∧
    ready.params.txCap < (State.cmdLen { ready with cmdLen1 := 2198 } .meas).toNat + 3 ∧
    (State.cmdLen { ready with cmdLen1 := 2197 } .meas).toNat + 3 ≤ ready.params.txCap := by decide

theorem witness_QuerySettlesThenReceives :
    ((answered ready (.querySend (.query .sn 1)) (.sendBytes [0x82]) .ok).Calls
        (.querySend (.query .sn 1)) 7 (.sendBytes [0x82]) (answerMove 7 .ok) [] ∧
      build.settleMs ≠ 0) ∧
    ((sleeping ready (.querySettle (.query .sn 1))).Wakes (.querySettle (.query .sn 1)) [] ∧
      build.rxTimeoutMs ≠ 0) :=
  ⟨⟨answered_calls _ _ _ _ rfl rfl rfl, by decide⟩, sleeping_wakes _ _ rfl rfl rfl, by decide⟩

theorem witness_QueryCommandEnds :
    (answered ready (.querySend (.query .meas 0)) (.sendBytes [0x82]) .fail).Calls
      (.querySend (.query .meas 0)) 7 (.sendBytes [0x82]) (answerMove 7 .fail) [] ∧
    (∀ m, (receiving ready (.queryRecv (.query .meas 0)) m).Receives
      (.queryRecv (.query .meas 0)) 7 3 m []) ∧
    (3 : Time) = (receiving ready (.queryRecv (.query .meas 0)) tickMove).now + 1 ∧
    (receiving ready (.queryRecv (.query .meas 0)) (answerMove 7 .timeout)).now < 3 ∧
    decodeFrame [0x05] = .mismatch 0x00 ∧ decodeFrame [0x00] = .ok 0x00 [] 0x00 ∧
    [(0x00 : Byte)].length ≤ build.rxCap ∧ build.rxCap ≤ 256 :=
  ⟨answered_calls _ _ _ _ rfl rfl rfl, fun _ => receiving_receives _ _ _ rfl rfl, by decide, by decide,
    by decide, by decide, by decide, by decide⟩

/-- A frame of TX_CAP bytes; one a byte too long, with room in the FIFO and without. -/
theorem witness_TransactCommandStarts :
    ready.tpOpen = true ∧ ready.numAddr.toNat ≤ ready.params.maxSlots ∧
    (1 : SlotId).toNat < ready.numAddr.toNat ∧ ready.maxRetries ≠ 0 ∧
    (State.cmdLen { ready with cmdLen0 := 2197 } .sn).toNat + 3 ≤ ready.params.txCap ∧
    ((State.cmdLen { ready with cmdLen0 := 2198 } .sn).toNat ≤ ready.params.cmdBufCap ∧
      ready.params.txCap < (State.cmdLen { ready with cmdLen0 := 2198 } .sn).toNat + 3) ∧
    ready.evtFifo.length < ready.params.logDepth ∧
    { build with logDepth := 1 }.logDepth ≤ { ready with evtFifo := [7] }.evtFifo.length := by decide

/-- A serial number under an address echo status, in a build that reads statuses as signed, and a
measurement under ACK. -/
theorem witness_TransactSuccessStoresReading :
    (∀ k m, (receiving ready (.queryRecv (.transact k 1 .host)) m).Receives
      (.queryRecv (.transact k 1 .host)) 7 3 m []) ∧
    build.wf = true ∧ { build with snStatusSigned := true }.wf = true ∧
    decodeFrame [0x7F, 0x4F, 0x30] = .ok 0x7F [0x4F] 0x30 ∧
    ((0x7F : Byte) ≠ 0x15 ∧ (0x7F : Byte).toNat < 0x80) ∧
    decodeFrame [0x06, 0x32, 0x33, 0x03, 0x04] = .ok 0x06 [0x32, 0x33] 0x04 :=
  ⟨fun _ _ => receiving_receives _ _ _ rfl rfl, by decide, by decide, by decide, by decide, by decide⟩

/-- After `n` attempts, the attempt of a Transact on slot 1 is in its receive, and `m` comes. -/
def attempting (n : Byte) (k : Kind) (o : Owner) (m : Move) : State :=
  receiving { ready with attempts := n } (.queryRecv (.transact k 1 o)) m

/-- An attempt on slot 1 fails in each of the six ways, the statuses being NAK, unexpected for a
measurement, and, in a build that reads statuses as signed, unexpected for a serial number. -/
theorem attempt_fails (n : Byte) (k : Kind) (o : Owner) :
    (∃ x, x.code = .sendFailure ∧ (answered { ready with attempts := n }
      (.querySend (.transact k 1 o)) (.sendBytes [0x82]) .fail).AttemptFails k 1 o [] x) ∧
    (∃ x, x.code = .timeoutError ∧ (attempting n k o tickMove).AttemptFails k 1 o [] x) ∧
    (∃ x, x.code = .timeoutError ∧
      (attempting n k o (answerMove 7 .timeout)).AttemptFails k 1 o [] x) ∧
    (∃ x, x.code = .emptyResponse ∧
      (attempting n k o (answerMove 7 (.bytes []))).AttemptFails k 1 o [] x) ∧
    (∃ x, x.code = .checksumMismatch ∧
      (attempting n k o (answerMove 7 (.bytes [0x05]))).AttemptFails k 1 o [] x) ∧
    (∃ x, x.code = .negativeAcknowledge ∧
      (attempting n k o (answerMove 7 (.bytes [0x15, 0x15]))).AttemptFails k 1 o [] x) ∧
    (∃ x, x.code = .unexpectedStatus ∧
      (attempting n .meas o (answerMove 7 (.bytes [0x01, 0x01]))).AttemptFails .meas 1 o [] x) ∧
    (∃ x, x.code = .unexpectedStatus ∧
      { attempting n .sn o (answerMove 7 (.bytes [0x80, 0x80])) with
        params := { build with snStatusSigned := true } }.AttemptFails .sn 1 o [] x) :=
  have early : (2 : Time) < 3 := by decide
  have fits1 : 1 ≤ build.rxCap := by decide
  have fits2 : 2 ≤ build.rxCap := by decide
  ⟨⟨_, rfl, .send 7 [0x82] (answered_calls _ _ _ _ rfl rfl rfl)⟩,
    ⟨_, rfl, .deadline 7 3 (receiving_receives _ _ _ rfl rfl) rfl⟩,
    ⟨_, rfl, .timeout 7 3 (receiving_receives _ _ _ rfl rfl) early⟩,
    ⟨_, rfl, .empty 7 3 (receiving_receives _ _ _ rfl rfl) early⟩,
    ⟨_, rfl, .mismatch 7 3 [0x05] 0 (receiving_receives _ _ _ rfl rfl) early fits1 (by decide)⟩,
    ⟨_, rfl, .status 7 3 [0x15, 0x15] 0x15 [] 0x15 (receiving_receives _ _ _ rfl rfl) early fits2
      (by decide) (by cases k <;> simp [failingStatus])⟩,
    ⟨_, rfl, .status 7 3 [0x01, 0x01] 0x01 [] 0x01 (receiving_receives _ _ _ rfl rfl) early fits2
      (by decide) (by simp [failingStatus])⟩,
    ⟨_, rfl, .status 7 3 [0x80, 0x80] 0x80 [] 0x80 ⟨rfl, ⟨_, _, rfl⟩, rfl, rfl, rfl, rfl⟩ early fits2
      (by decide) (by simp [failingStatus])⟩⟩

/-- One attempt left (each way of failing: `attempt_fails`). -/
theorem witness_FailedAttemptRetries :
    (∃ x, x.code = .negativeAcknowledge ∧
      (attempting 24 .sn .scan (answerMove 7 (.bytes [0x15, 0x15]))).AttemptFails .sn 1 .scan [] x) ∧
    (attempting 24 .sn .scan tickMove).attempts.toNat < ready.maxRetries.toNat ∧
    (ready.cmdLen .sn).toNat + 3 ≤ ready.params.txCap ∧ ready.params.wf = true :=
  ⟨(attempt_fails 24 .sn .scan).2.2.2.2.2.1, by decide, by decide, by decide⟩

/-- No attempt left (each way of failing: `attempt_fails`). -/
theorem witness_LastFailureExhausts :
    (∃ x, x.code = .unexpectedStatus ∧
      { attempting 25 .sn .host (answerMove 7 (.bytes [0x80, 0x80])) with
        params := { build with snStatusSigned := true } }.AttemptFails .sn 1 .host [] x) ∧
    ready.maxRetries.toNat ≤ (attempting 25 .sn .host tickMove).attempts.toNat ∧
    { build with snStatusSigned := true }.wf = true :=
  ⟨(attempt_fails 25 .sn .host).2.2.2.2.2.2.2, by decide, by decide⟩

theorem witness_FailedTransactKeepsReadings :
    transactOutcome .sn 0 .host (.err .encodingOverflow) ready =
      .ended (transactFatal .sn 0 ready) .overflow ∧ TResult.overflow ≠ .ok :=
  ⟨rfl, by decide⟩

/-- One NAK and then ACK, with MAX_RETRIES = 2. -/
def nakThenAck : State :=
  { receiving ready (.queryRecv (.transact .meas 1 .host)) tickMove with
    attempts := 1, maxRetries := 2
    inputs := nakRounds 1 7 [0x15, 0x15] 2 ++ answerMove 9 (.bytes [0x06, 0x06]) :: [] }

theorem witness_MeasurementSucceedsAfterNaks :
    nakThenAck.eng = .cmd ∧ nakThenAck.cont = .queryRecv (.transact .meas 1 .host) ∧
    nakThenAck.resume = none ∧ nakThenAck.sleepUntil = none ∧
    nakThenAck.tpReq = some ⟨7, .recvBytes 255 3⟩ ∧ nakThenAck.tpSeq = 7 + 1 ∧
    nakThenAck.rxDeadline = some 3 ∧ nakThenAck.now < 3 ∧ nakThenAck.attempts = 1 ∧
    1 + 1 ≤ nakThenAck.maxRetries.toNat ∧
    nakThenAck.cmdLen1.toNat + 3 ≤ nakThenAck.params.txCap ∧ nakThenAck.params.settleMs ≠ 0 ∧
    nakThenAck.params.rxTimeoutMs ≠ 0 ∧
    nakThenAck.now.toNat + (1 + 1) * nakThenAck.params.settleMs.toNat +
      nakThenAck.params.rxTimeoutMs.toNat < 2 ^ 64 ∧
    decodeFrame [0x15, 0x15] = .ok 0x15 [] 0x15 ∧ decodeFrame [0x06, 0x06] = .ok 0x06 [] 0x06 ∧
    nakThenAck.inputs = nakRounds 1 7 [0x15, 0x15] nakThenAck.params.settleMs.toNat ++
      answerMove (7 + 2 * 1) (.bytes [0x06, 0x06]) :: [] := by decide

/-- Distinct addresses; then no minimum delay, and a minimum delay with one millisecond left. -/
theorem witness_ScanStartStartsOrRejects_starts :
    closed.eng = .ready ∧ closed.defer = false ∧ closed.tpOpen = false ∧ closed.maxRetries ≠ 0 ∧
    1 ≤ closed.numAddr.toNat ∧ closed.numAddr.toNat ≤ closed.params.maxSlots ∧
    (∀ x y : SlotId, x.toNat < closed.numAddr.toNat → y.toNat < closed.numAddr.toNat → x ≠ y →
      (closed.slot x).addr &&& 0x7F ≠ (closed.slot y).addr &&& 0x7F) ∧
    closed.cmdLen0.toNat ≤ closed.params.cmdBufCap ∧ closed.cmdLen1.toNat ≤ closed.params.cmdBufCap ∧
    closed.params.maxSlots ≤ 32 ∧ closed.lastValid = false ∧
    (let s : State := { closed with lastValid := true, minScanDelay := 1, lastScan := 5, now := 1004 };
      s.lastValid = true ∧ s.lastScan.toNat ≤ s.now.toNat ∧
      s.now.toNat - s.lastScan.toNat < s.minScanDelay.toNat * 1000 ∧ s.params.pollMs ≠ 0) := by
  decide +kernel

/-- One state per rejection: no slot, too many, two equal addresses, two payload lengths, no attempt; and
an open transport. -/
theorem witness_ScanStartStartsOrRejects_rejects :
    { closed with numAddr := 0 }.numAddr = 0 ∧
    closed.params.maxSlots < { closed with numAddr := 33 }.numAddr.toNat ∧
    ((closed.setSlot 1 { addr := 0x81 }).slot 0).addr &&& 0x7F =
      ((closed.setSlot 1 { addr := 0x81 }).slot 1).addr &&& 0x7F ∧
    closed.params.cmdBufCap < { closed with cmdLen0 := 4097 }.cmdLen0.toNat ∧
    closed.params.cmdBufCap < { closed with cmdLen1 := 4097 }.cmdLen1.toNat ∧
    { closed with maxRetries := 0 }.maxRetries = 0 ∧
    (ready.tpOpen = true ∧ ready.numAddr ≠ 0 ∧ ready.numAddr.toNat ≤ ready.params.maxSlots ∧
      ready.maxRetries ≠ 0) := by decide

/-- A serial number whose measurement fits TX_CAP exactly, and one whose measurement is a byte too long;
a measurement. -/
theorem witness_ScanSuccessGoesOn :
    (∀ k m, (attempting 3 k .scan m).Receives (.queryRecv (.transact k 1 .scan)) 7 3 m []) ∧
    build.wf = true ∧ decodeFrame [0x7F, 0x4F, 0x30] = .ok 0x7F [0x4F] 0x30 ∧
    ((0x7F : Byte) ≠ 0x15 ∧ (0x7F : Byte).toNat < 0x80) ∧ ready.maxRetries ≠ 0 ∧
    { ready with cmdLen1 := 2197 }.cmdLen1.toNat + 3 ≤ build.txCap ∧
    build.txCap < { ready with cmdLen1 := 2198 }.cmdLen1.toNat + 3 ∧ build.paceMs ≠ 0 ∧
    decodeFrame [0x06, 0x32, 0x33, 0x03, 0x04] = .ok 0x06 [0x32, 0x33] 0x04 :=
  ⟨fun _ _ => receiving_receives _ _ _ rfl rfl, by decide, by decide, by decide, by decide, by decide,
    by decide, by decide, by decide⟩

theorem witness_ResultAckCommandAcknowledges :
    (presenting.eng ≠ .halted ∧ presenting.recPend = true) ∧
    (ready.eng ≠ .halted ∧ ready.recPend = false) := by decide

/-- With room for the event, and with a FIFO that is full. -/
theorem witness_AcknowledgedRecordGoesOn :
    presenting.eng = .sched ∧ presenting.cont = .schedAck ∧ presenting.recPend = true ∧
    presenting.resume = none ∧ presenting.evtFifo.length < presenting.params.logDepth ∧
    (let full : State := { presenting with params := { build with logDepth := 1 }, evtFifo := [7] };
      full.params.logDepth ≤ full.evtFifo.length) ∧
    presenting.recNext ≤ 1 ∧ 1 < presenting.numAddr.toNat ∧ presenting.fresh.getLsbD 1 = true ∧
    (∀ i, presenting.recNext ≤ i → i < 1 → presenting.fresh.getLsbD i = false) ∧
    { presenting with inputs := [issueMove (encode (.resultAck 2))] }.inputs =
      [issueMove (encode (.resultAck 2))] := by
  refine ⟨rfl, rfl, rfl, rfl, by decide, by decide, by decide, by decide, by decide, ?_, rfl⟩
  intro i h h'
  have : 1 ≤ i := h
  omega

/-- A spent budget; one pass left, without a minimum delay and with one. -/
theorem witness_LastAcknowledgementCompletesPass :
    let s : State := { presenting with recNext := 2, inputs := [issueMove (encode (.resultAck 9))] }
    s.eng = .sched ∧ s.cont = .schedAck ∧ s.recPend = true ∧ s.resume = none ∧
    s.inputs = [issueMove (encode (.resultAck 9))] ∧ s.numAddr.toNat ≤ s.recNext ∧
    (s.unbounded = false ∧ s.remaining = 0 ∧ s.params.pollMs ≠ 0) ∧
    { s with remaining := 1 }.minScanDelay = 0 ∧
    (let d : State := { s with remaining := 1, minScanDelay := 1 };
      d.remaining ≠ 0 ∧ d.minScanDelay ≠ 0 ∧ d.params.pollMs ≠ 0) := by decide

/-- The scheduler idle for good, a tick coming. -/
def exhausted : State :=
  { closed with eng := .sched, cont := .haltIdle, sstate := .idle, inputs := [tickMove] }

theorem witness_ExhaustedIdleIsQuiescent :
    exhausted.eng = .sched ∧ exhausted.cont = .haltIdle ∧ exhausted.resume = none ∧
    exhausted.NoWait ∧ exhausted.recPend = false ∧ exhausted.resetNext = false ∧
    step exhausted = .next { exhausted with now := 1, inputs := [] } :=
  ⟨rfl, rfl, rfl, ⟨rfl, rfl, rfl⟩, rfl, rfl, rfl⟩

/-- The last tick of the back-off after a scan that ended at `t`, MIN_SCAN_DELAY being a second. -/
def backingOff (t : Time) : State :=
  { sleeping { closed with remaining := 1 } .schedBackoff with
    now := 1004, sleepUntil := some 1005, lastValid := true, lastScan := t, minScanDelay := 1 }

/-- The failed open, with room in the FIFO and without; the back-off's end before any scan, exactly the
minimum delay after one, and a millisecond short of it. -/
theorem witness_OpenFailureBacksOff :
    ((answered closed .schedOpen (.openLine 19200 8 .none .one) .fail).Calls .schedOpen 7
        (.openLine 19200 8 .none .one) (answerMove 7 .fail) [] ∧ build.pollMs ≠ 0 ∧
      closed.evtFifo.length < build.logDepth ∧
      { build with logDepth := 1 }.logDepth ≤ { closed with evtFifo := [7] }.evtFifo.length) ∧
    ((sleeping { closed with remaining := 1 } .schedBackoff).Wakes .schedBackoff [] ∧
      { closed with remaining := 1 }.remaining ≠ 0 ∧ closed.lastValid = false) ∧
    (∀ t, (backingOff t).Wakes .schedBackoff [] ∧ (backingOff t).lastValid = true) ∧
    (backingOff 5).minScanDelay.toNat * 1000 ≤
      ((backingOff 5).now + 1 - (backingOff 5).lastScan).toNat ∧
    ((backingOff 6).now + 1 - (backingOff 6).lastScan).toNat <
      (backingOff 6).minScanDelay.toNat * 1000 :=
  ⟨⟨answered_calls _ _ _ _ rfl rfl rfl, by decide, by decide, by decide⟩,
    ⟨sleeping_wakes _ _ rfl rfl rfl, by decide, by decide⟩,
    fun _ => ⟨⟨rfl, rfl, rfl, rfl, rfl, rfl⟩, rfl⟩, by decide, by decide⟩

/-- The open's answer; the dummy receive's deadline, Timeout and RX_CAP bytes; slot 0's frame of TX_CAP
bytes and one a byte too long. -/
theorem witness_ScanPassStarts :
    ((answered closed .schedOpen (.openLine 19200 8 .none .one) .ok).Calls .schedOpen 7
        (.openLine 19200 8 .none .one) (answerMove 7 .ok) [] ∧ build.rxTimeoutMs ≠ 0) ∧
    (∀ m, (receiving ready .schedFlush m).Receives .schedFlush 7 3 m []) ∧
    (3 : Time) = (receiving ready .schedFlush tickMove).now + 1 ∧
    (receiving ready .schedFlush (answerMove 7 .timeout)).now < 3 ∧
    (List.replicate 255 (0 : Byte)).length ≤ build.rxCap ∧
    1 ≤ ready.numAddr.toNat ∧ ready.maxRetries ≠ 0 ∧
    { ready with cmdLen0 := 2197 }.cmdLen0.toNat + 3 ≤ build.txCap ∧
    build.txCap < { ready with cmdLen0 := 2198 }.cmdLen0.toNat + 3 ∧ build.paceMs ≠ 0 :=
  ⟨⟨answered_calls _ _ _ _ rfl rfl rfl, by decide⟩, fun _ => receiving_receives _ _ _ rfl rfl, rfl,
    by decide, by rw [List.length_replicate]; decide, by decide, by decide, by decide, by decide,
    by decide⟩

/-- No attempt left in a scan, for both kinds (each way of failing: `attempt_fails`). -/
theorem witness_ScanFailureStartsPacing :
    (∀ k, ∃ x, x.code = .timeoutError ∧ (attempting 25 k .scan tickMove).AttemptFails k 1 .scan [] x) ∧
    ready.maxRetries.toNat ≤ (attempting 25 .sn .scan tickMove).attempts.toNat ∧
    build.paceMs ≠ 0 ∧ build.wf = true :=
  ⟨fun k => (attempt_fails 25 k .scan).2.1, by decide, by decide, by decide⟩

/-- WAITING right after a scan's end, with MIN_SCAN_DELAY = 1 and POLL_MS = 300: 1200 ms to the open. -/
def waitingPoll : State :=
  { closed with params := { build with pollMs := 300 }, eng := .sched, cont := .schedPoll
                lastValid := true, lastScan := 7, now := 7, minScanDelay := 1
                sleepUntil := some 307, inputs := List.replicate 1200 tickMove ++ [] }

theorem witness_NextScanOpensAtPollMultiple :
    (waitingPoll.eng = .sched ∧ waitingPoll.cont = .schedPoll ∧ waitingPoll.resume = none ∧
      waitingPoll.tpReq = none ∧ waitingPoll.rxDeadline = none ∧ waitingPoll.lastValid = true ∧
      waitingPoll.lastScan = waitingPoll.now ∧
      waitingPoll.sleepUntil = some (waitingPoll.now + waitingPoll.params.pollMs.setWidth 64) ∧
      waitingPoll.params.pollMs ≠ 0 ∧ waitingPoll.minScanDelay ≠ 0 ∧
      1200 = waitingPoll.params.pollMs.toNat *
        ((1000 * waitingPoll.minScanDelay.toNat + waitingPoll.params.pollMs.toNat - 1) /
          waitingPoll.params.pollMs.toNat) ∧ waitingPoll.now.toNat + 1200 < 2 ^ 64) ∧
    waitingPoll.inputs = List.replicate 1200 tickMove ++ [] :=
  ⟨by decide, rfl⟩

/-- The pacing of slot 0 ends, with slot 1 to come (its frame of TX_CAP bytes, and one a byte too long);
that of slot 1, the last, ends with slot 1 FRESH, and with none. -/
theorem witness_PacingEndGoesOn :
    (∀ c : SlotId, (sleeping { ready with curSlot := c, unbounded := true } .schedPace).Wakes
      .schedPace []) ∧
    ((0 : SlotId).toNat + 1 < ready.numAddr.toNat ∧ ready.maxRetries ≠ 0 ∧ build.paceMs ≠ 0 ∧
      { ready with cmdLen0 := 2197 }.cmdLen0.toNat + 3 ≤ build.txCap ∧
      build.txCap < { ready with cmdLen0 := 2198 }.cmdLen0.toNat + 3) ∧
    ready.numAddr.toNat ≤ (1 : SlotId).toNat + 1 ∧
    (1 < ready.numAddr.toNat ∧ (0b10 : Word).getLsbD 1 = true ∧
      ∀ i, i < 1 → (0b10 : Word).getLsbD i = false) ∧
    ((∀ j, j < ready.numAddr.toNat → ready.fresh.getLsbD j = false) ∧ build.pollMs ≠ 0) :=
  ⟨fun _ => sleeping_wakes _ _ rfl rfl rfl, by decide, by decide, by decide, by decide, by decide⟩

/-- One millisecond, and its one tick. -/
theorem witness_DelayCommandSleepsExactly :
    ready.eng = .ready ∧ ready.defer = false ∧ ready.resume = none ∧ ready.NoWait ∧
    ready.now.toNat + (1 : BitVec 24).toNat < 2 ^ 64 ∧
    { ready with inputs := [tickMove] }.inputs =
      List.replicate (1 : BitVec 24).toNat tickMove ++ [] :=
  ⟨rfl, rfl, rfl, ⟨rfl, rfl, rfl⟩, by decide, rfl⟩

theorem witness_HaltedThenBusyRejection :
    { closed with eng := .halted }.eng = .halted ∧ exhausted.eng = .sched ∧
    (sleeping ready .delaying).eng = .cmd := by decide

theorem witness_SlotCommandRejections :
    closed.tpOpen = false ∧ ready.params.maxSlots < { ready with numAddr := 33 }.numAddr.toNat ∧
    ready.numAddr.toNat ≤ (2 : SlotId).toNat ∧
    ready.params.cmdBufCap < (State.cmdLen { ready with cmdLen0 := 4097 } .sn).toNat ∧
    (ready.tpOpen = true ∧ { ready with maxRetries := 0 }.maxRetries = 0) := by decide

/-- A command that is rejected deferred or not, and one that is only accepted. -/
theorem witness_DeferredStartRunsTheSame :
    { ready with defer := true }.eng = .ready ∧ { ready with defer := true }.defer = true ∧
    ready.resume = none ∧
    after (exec .openTp { ready with defer := true }) (fun t => t.rejWord == 0x040B) = true ∧
    after (exec .send { ready with defer := true, txValid := true }) (fun t => t.busy) = true := by
  decide

/-! The invariant holds of states in which an operation is under way. -/

/-- OPEN waiting for its answer, while the host reads STATUS. -/
def opening : State :=
  { answered closed .openAns (.openLine 19200 8 .none .one) .ok with inputs := [⟨.read 8 .word, false⟩] }

theorem opening_inv : opening.Inv :=
  ⟨by decide, by decide, ⟨rfl, rfl, rfl, .inl ⟨rfl, _, rfl, rfl, by decide⟩⟩,
    fun h => absurd h (by decide), Nat.zero_le _, ⟨fun _ => rfl, by decide⟩,
    ⟨⟨fun h => absurd h (by decide), fun h => absurd h (by decide)⟩, fun h => absurd h (by decide)⟩⟩

/-- Halted, a tick coming. -/
def halted : State := { closed with eng := .halted, sstate := .halted, inputs := [tickMove] }

theorem halted_inv : halted.Inv :=
  ⟨by decide, by decide, ⟨.inr rfl, rfl, rfl, rfl, rfl⟩, fun h => absurd h (by decide), Nat.zero_le _,
    ⟨fun _ => rfl, by decide⟩, ⟨⟨fun _ => rfl, fun _ => rfl⟩, fun _ => rfl⟩⟩

/-- A Query of slot 1 whose send is being answered. -/
def sendingSlot1 : State := answered ready (.querySend (.transact .sn 1 .host)) (.sendBytes [0x82]) .ok

theorem sendingSlot1_inv : sendingSlot1.Inv :=
  ⟨by decide, by decide, ⟨rfl, rfl, rfl, .inl ⟨rfl, _, rfl, rfl, by decide⟩⟩,
    fun h => absurd h (by decide), Nat.zero_le _, ⟨fun _ => rfl, by decide⟩,
    ⟨⟨fun h => absurd h (by decide), fun h => absurd h (by decide)⟩, fun h => absurd h (by decide)⟩⟩

/-- The scheduler released from its back-off sleep. -/
def backoffOver : State :=
  { closed with eng := .sched, cont := .schedBackoff, sstate := .waiting, unbounded := true
                resume := some .woke }

theorem backoffOver_inv : backoffOver.Inv :=
  ⟨by decide, by decide, ⟨rfl, rfl, rfl, .inr ⟨rfl, rfl⟩⟩, fun h => absurd h (by decide), Nat.zero_le _,
    ⟨fun _ => rfl, by decide⟩,
    ⟨⟨fun h => absurd h (by decide), fun h => absurd h (by decide)⟩, fun h => absurd h (by decide)⟩⟩

theorem witness_StepKeepsInvariant :
    opening.Inv ∧ step opening = .next { opening with inputs := [], hostData := 1 } :=
  ⟨opening_inv, rfl⟩

theorem witness_NoFaultFromInvariant : opening.Inv ∧ opening.params.pollMs ≠ 0 :=
  ⟨opening_inv, by decide⟩

theorem witness_HaltedUntilReset :
    halted.Inv ∧ halted.eng = .halted ∧ halted.resetNext = false ∧
    step halted = .next { halted with now := 1, inputs := [] } :=
  ⟨halted_inv, rfl, rfl, rfl⟩

theorem witness_TimeAdvancesOnlyByTicks :
    (halted.tickNext = true ∧ halted.resume = none ∧
      step halted = .next { halted with now := 1, inputs := [] }) ∧
    { halted with inputs := [⟨.reset, false⟩] }.resetNext = true ∧
    (opening.tickNext = false ∧ opening.resetNext = false ∧
      step opening = .next { opening with inputs := [], hostData := 1 }) :=
  ⟨⟨rfl, rfl, rfl⟩, rfl, rfl, rfl, rfl⟩

theorem witness_ConfigurationLockedWhileRunning :
    opening.Inv ∧ opening.eng ≠ .ready ∧ opening.resetNext = false ∧
    step opening = .next { opening with inputs := [], hostData := 1 } :=
  ⟨opening_inv, by decide, rfl, rfl⟩

theorem witness_SchedulerContainsFailures :
    backoffOver.Inv ∧ backoffOver.eng = .sched ∧
    engineMove backoffOver = .next (schedIdle { backoffOver with resume := none }) :=
  ⟨backoffOver_inv, rfl, rfl⟩

theorem witness_OneRequestAtATime :
    opening.Inv ∧ opening.tpReq = some ⟨7, .openLine 19200 8 .none .one⟩ ∧ opening.tickNext = false ∧
    opening.resetNext = false ∧ opening.inputs = [⟨.read 8 .word, false⟩] ∧
    step opening = .next { opening with inputs := [], hostData := 1 } :=
  ⟨opening_inv, rfl, rfl, rfl, rfl, rfl⟩

/-- SENT does change in this step. -/
theorem witness_CountersOnlyByOwnQuery :
    sendingSlot1.Inv ∧ sendingSlot1.resetNext = false ∧
    after (step sendingSlot1) (fun t => (t.slot 1).sent == 1) = true :=
  ⟨sendingSlot1_inv, rfl, by decide⟩

theorem witness_InterruptBitsAreSticky :
    opening.resetNext = false ∧ opening.inputs = [⟨.read 8 .word, false⟩] ∧
    step opening = .next { opening with inputs := [], hostData := 1 } := ⟨rfl, rfl, rfl⟩

/-- The last byte of ADDR_TABLE, RXBUF, CMDBUF0 and CMDBUF1, the last whole words of ADDR_TABLE and
CMDBUF1, the last word and half of RXBUF, whose last bytes lie past its end, and a last word of ADDR_TABLE
that does so in a build with 30 slots; locked and not. -/
theorem witness_LockedWritesIgnored :
    ready.params.wf = true ∧ { build with maxSlots := 30 }.wf = true ∧ opening.eng ≠ .ready ∧
    ready.eng = .ready ∧
    covers (0x011F : HostAddr).toNat 0x0100 ready.params.maxSlots ∧
    (covers (0x011C : HostAddr).toNat 0x0100 ready.params.maxSlots ∧
      covers (0x011C : HostAddr).toNat 0x0100 30 ∧ (0x011C : HostAddr).toNat % Width.word.bytes = 0) ∧
    ((0x2000, 255) ∈ rwlBuffers ready.params ∧ covers (0x20FE : HostAddr).toNat 0x2000 255 ∧
      (0x20FE : HostAddr).toNat % Width.half.bytes = 0 ∧ covers (0x20FC : HostAddr).toNat 0x2000 255 ∧
      (0x20FC : HostAddr).toNat % Width.word.bytes = 0) ∧
    ((0x3000, 4096) ∈ rwlBuffers ready.params ∧ covers (0x3FFF : HostAddr).toNat 0x3000 4096) ∧
    ((0x4000, 4096) ∈ rwlBuffers ready.params ∧ covers (0x4FFF : HostAddr).toNat 0x4000 4096 ∧
      covers (0x4FFC : HostAddr).toNat 0x4000 4096 ∧ (0x4FFC : HostAddr).toNat % Width.word.bytes = 0) := by
  unfold covers
  decide

/-- The first word of RXBUF and the last whole one. -/
theorem witness_BufferWordsAreLittleEndian :
    ready.params.wf = true ∧ 4 * 0 + 4 ≤ ready.params.rxCap ∧ 4 * 62 + 4 ≤ ready.params.rxCap ∧
    ready.eng = .ready := by decide

/-- The first and the last address of each gap of the map, with 32 slots, are unmapped; a width that no
register, slot word or ADDR_TABLE takes; a misaligned access; and an access of each kind that is none. -/
theorem witness_AccessErrorsPerformNothing :
    ready.params.wf = true ∧
    (∀ a ∈ [0x0074, 0x007F, 0x0098, 0x00FF, 0x0120, 0x01FF, 0x0600, 0x0FFF, 0x1898, 0x1FFF, 0x20FF,
        0x21FF, 0x2FFF, 0x5000, 0x7FFF, 0xC000, 0xFFFF], ¬ mappedAddr ready.params a) ∧
    (¬ widthAllowed 0x0008 .byte ∧ ¬ widthAllowed 0x0200 .half ∧ ¬ widthAllowed 0x05FF .byte ∧
      ¬ widthAllowed 0x0100 .half) ∧
    (0x2001 : HostAddr).toNat % Width.half.bytes ≠ 0 ∧
    ((mappedAddr ready.params 0x0008 ∧ widthAllowed 0x0008 .word) ∧
      (mappedAddr ready.params 0x011F ∧ widthAllowed 0x011F .byte) ∧
      (mappedAddr ready.params 0x05FC ∧ widthAllowed 0x05FC .word) ∧
      mappedAddr ready.params 0xBFFE ∧ widthAllowed 0xBFFE .half) := by
  have e : ready.params.maxSlots = 32 ∧ ready.params.txCap = 2200 ∧ ready.params.rxCap = 255 ∧
    ready.params.cmdBufCap = 4096 := by decide
  obtain ⟨e1, e2, e3, e4⟩ := e
  refine ⟨by decide, ?_, ?_, by decide, ?_⟩ <;>
    simp [mappedAddr, widthAllowed, covers, e1, e2, e3, e4]

theorem witness_TimeReadsWithoutTearing :
    halted.inputs = List.replicate 1 tickMove ++ [] ∧
    after (stepN 1 (hostRead 0x0020 .word halted)) (fun t => t.now == 1) = true ∧
    after (stepN 1 (hostRead 0x0028 .word halted)) (fun t => t.now == 1) = true :=
  ⟨rfl, by decide, by decide⟩

/-- A FIFO with room for one more, a full one, one event, none. -/
theorem witness_EventLogIsBoundedFifo :
    { ready with params := { build with logDepth := 2 }, evtFifo := [5] }.evtFifo.length < 2 ∧
    2 ≤ { ready with params := { build with logDepth := 2 }, evtFifo := [5, 6] }.evtFifo.length ∧
    { ready with evtFifo := [5] }.evtFifo = 5 :: [] ∧ ready.evtFifo = [] := by decide

theorem witness_ResultRegisterFields :
    ready.params.wf = true ∧ (31 : SlotId).toNat < ready.params.maxSlots := by decide

end Sys2Proof.Tests
end

section
/-! PROOFS. The encoding family: what a word that decodes must look like (R103, R104), and so what a CMD
write of any other word does (R105). -/

namespace Sys2Proof

/-- The bits in which the format of an opcode has `0` (R101): CA for ENCODE, CS for QUERY and TRANSACT,
CC for RESULT_ACK, CD, which has none, for DELAY, and C0 for the rest. -/
def mustBeZeroBits (op : Byte) : Word :=
  match op.toNat with
  | 0x01 => 0xFEFF0000
  | 0x09 | 0x0A => 0xFEE0FF00
  | 0x0D => 0xFFFF0000
  | 0x0E => 0
  | _ => 0xFFFFFF00

theorem mustBeZeroBits_encode {op : Byte} (h : op.toNat = 0x01) :
    mustBeZeroBits op = 0xFEFF0000 := by simp [mustBeZeroBits, h]

theorem mustBeZeroBits_slotFormat {op : Byte} (h : op.toNat ∈ [0x09, 0x0A]) :
    mustBeZeroBits op = 0xFEE0FF00 := by
  obtain h | h : op.toNat = 0x09 ∨ op.toNat = 0x0A := by simpa using h
  all_goals simp [mustBeZeroBits, h]

theorem mustBeZeroBits_resultAck {op : Byte} (h : op.toNat = 0x0D) :
    mustBeZeroBits op = 0xFFFF0000 := by simp [mustBeZeroBits, h]

theorem mustBeZeroBits_noOperand {op : Byte}
    (h : op.toNat ∈ [0x02, 0x03, 0x04, 0x05, 0x06, 0x07, 0x08, 0x0B, 0x0C]) :
    mustBeZeroBits op = 0xFFFFFF00 := by
  unfold mustBeZeroBits
  split <;> simp_all

/-- Every row of the command map (R104) fixes the whole of OP, to a listed value, and fixes to 0 the bits
in which the format of that OP has `0`. -/
theorem rows_fix_op_and_zeros : ∀ r ∈ rows,
    fieldOp r.mask = 0xFF ∧ (0 < (fieldOp r.pattern).toNat ∧ (fieldOp r.pattern).toNat < 0x0F) ∧
      r.mask &&& mustBeZeroBits (fieldOp r.pattern) = mustBeZeroBits (fieldOp r.pattern) ∧
      r.pattern &&& mustBeZeroBits (fieldOp r.pattern) = 0 := by
  decide

/-- Bits that a row fixes are, in a word that satisfies it, the row's own. -/
theorem Row.and_eq_of_fits {r : Row} {w bits : Word} (hfit : r.fits w = true)
    (hfix : r.mask &&& bits = bits) : w &&& bits = r.pattern &&& bits := by
  have hw : w &&& r.mask = r.pattern := by simpa [Row.fits] using hfit
  rw [← hw, BitVec.and_assoc, hfix]

theorem Row.fieldOp_eq_of_fits {r : Row} {w : Word} (hfit : r.fits w = true)
    (hmask : fieldOp r.mask = 0xFF) : fieldOp w = fieldOp r.pattern := by
  have hw : w &&& r.mask = r.pattern := by simpa [Row.fits] using hfit
  have hall : (0xFF : Byte) = BitVec.allOnes 8 := rfl
  calc fieldOp w = fieldOp w &&& fieldOp r.mask := by rw [hmask, hall, BitVec.and_allOnes]
    _ = fieldOp (w &&& r.mask) := BitVec.extractLsb'_and.symm
    _ = fieldOp r.pattern := by rw [hw]

/-- A word that decodes does so by a row of the map that it satisfies (R103). -/
theorem exists_row_of_decode {w : Word} {i : Instr} (h : decode w = .ok i) :
    ∃ r ∈ rows, r.fits w = true := by
  cases hfind : rows.find? (fun r => r.fits w) with
  | some r => exact ⟨r, List.mem_of_find?_eq_some hfind, by simpa using List.find?_some hfind⟩
  | none =>
    simp only [decode, hfind] at h
    split at h <;> cases h

/-- A word that decodes has a listed OP and only zeros in its format's `0` bits, so neither of
R105's two ways of being no command holds of it. -/
theorem op_listed_and_zeros_of_decode {w : Word} {i : Instr} (h : decode w = .ok i) :
    0 < (fieldOp w).toNat ∧ (fieldOp w).toNat < 0x0F ∧ w &&& mustBeZeroBits (fieldOp w) = 0 := by
  obtain ⟨r, hr, hfit⟩ := exists_row_of_decode h
  obtain ⟨hmask, ⟨hpos, hlt⟩, hfix, hzero⟩ := rows_fix_op_and_zeros r hr
  rw [r.fieldOp_eq_of_fits hfit hmask]
  exact ⟨hpos, hlt, (r.and_eq_of_fits hfit hfix).trans hzero⟩

/-- R105: a reserved OP, or a nonzero bit where the format has `0`, is no command. -/
theorem decode_error_of_reserved_or_nonzero {w : Word}
    (h : fieldOp w = 0x00 ∨ 0x0F ≤ (fieldOp w).toNat ∨ w &&& mustBeZeroBits (fieldOp w) ≠ 0) :
    ∃ e, decode w = .error e := by
  cases hdec : decode w with
  | error e => exact ⟨e, rfl⟩
  | ok i =>
    obtain ⟨hpos, hlt, hzero⟩ := op_listed_and_zeros_of_decode hdec
    obtain hop | hop | hbits := h
    · simp [hop] at hpos
    · omega
    · exact absurd hzero hbits

end Sys2Proof

namespace Sys2Proof.Machine

/-- A 4-byte write to CMD is the issue of the word (R25, R100). -/
theorem hostWrite_cmd (w : Word) (s : State) : hostWrite 0x0004 .word w s = issueWord w s := rfl

theorem issueWord_of_decode_error {w : Word} {e : DecodeError} (s : State)
    (h : decode w = .error e) :
    issueWord w s =
      .next (s.reject (if s.eng = .halted then .halted else .illegalCommand) (fieldOp w)) := by
  simp only [issueWord, h]

/-- Settles O7: a malformed word satisfies no row of the command map, so it does not decode, and the CMD
write is R303's rejection. -/
theorem reservedWordsRejected : Obligations.ReservedWordsRejected := by
  unfold Obligations.ReservedWordsRejected
  intro w s h
  have hbad : fieldOp w = 0x00 ∨ 0x0F ≤ (fieldOp w).toNat ∨
      w &&& mustBeZeroBits (fieldOp w) ≠ 0 := by
    obtain hop | hop | ⟨hop, hbits⟩ | ⟨hop, hbits⟩ | ⟨hop, hbits⟩ | ⟨hop, hbits⟩ := h
    · exact .inl hop
    · exact .inr (.inl hop)
    · exact .inr (.inr (by rwa [fieldOp, mustBeZeroBits_noOperand hop]))
    · exact .inr (.inr (by rwa [fieldOp, mustBeZeroBits_encode hop]))
    · exact .inr (.inr (by rwa [fieldOp, mustBeZeroBits_slotFormat hop]))
    · exact .inr (.inr (by rwa [fieldOp, mustBeZeroBits_resultAck hop]))
  obtain ⟨e, hdec⟩ := decode_error_of_reserved_or_nonzero hbad
  rw [hostWrite_cmd, issueWord_of_decode_error s hdec]
  rfl

end Sys2Proof.Machine
end

section
/-! PROOFS. The frame codec family: DecodeFrame's check is that the exclusive-or of a whole response
is 0 (R134), from which R136 to R138 follow, and the whole next state of ENCODE, VERIFY and DECODE
(R130, R132, R133). -/

namespace Sys2Proof.Machine

/-! ### The exclusive-or of a byte sequence (R9) -/

theorem xorBytes_append (l l' : List Byte) : xorBytes (l ++ l') = xorBytes l ^^^ xorBytes l' := by
  induction l with
  | nil => simp [xorBytes]
  | cons b l ih => simp only [List.cons_append, xorBytes, ih, BitVec.xor_assoc]

@[simp] theorem xorBytes_singleton (b : Byte) : xorBytes [b] = b := by simp [xorBytes]

/-- A byte changed by a mask changes the exclusive-or by that mask. -/
theorem xorBytes_modify_xor {r : List Byte} {i : Nat} (m : Byte) (hi : i < r.length) :
    xorBytes (r.modify i fun x => x ^^^ m) = xorBytes r ^^^ m := by
  induction r generalizing i with
  | nil => simp at hi
  | cons b r ih =>
    cases i with
    | zero =>
      rw [List.modify_zero_cons, xorBytes, xorBytes, BitVec.xor_assoc, BitVec.xor_comm m,
        BitVec.xor_assoc]
    | succ i =>
      rw [List.modify_succ_cons, xorBytes, xorBytes, ih (by simpa using hi), BitVec.xor_assoc]

/-! ### The check of a response (R134) -/

@[simp] theorem bodyXor_append_singleton (l : List Byte) (c : Byte) :
    bodyXor (l ++ [c]) = xorBytes l := by
  simp [bodyXor]

@[simp] theorem lastByte_append_singleton (l : List Byte) (c : Byte) : lastByte (l ++ [c]) = c :=
  getLastD_append_one l c 0

/-- A response passes the check exactly when all its bytes, the checksum among them, XOR to 0. -/
theorem bodyXor_eq_lastByte_iff {r : List Byte} (hr : r ≠ []) :
    bodyXor r = lastByte r ↔ xorBytes r = 0 := by
  obtain ⟨l, c, rfl⟩ := (List.eq_nil_or_concat' r).resolve_left hr
  rw [bodyXor_append_singleton, lastByte_append_singleton, xorBytes_append, xorBytes_singleton]
  exact BitVec.xor_eq_zero_iff.symm

theorem decodeFrame_of_xor_ne_zero {r : List Byte} (hr : r ≠ []) (hx : xorBytes r ≠ 0) :
    decodeFrame r = .mismatch (bodyXor r) := by
  have hc : bodyXor r ≠ lastByte r := mt (bodyXor_eq_lastByte_iff hr).1 hx
  cases r with
  | nil => exact absurd rfl hr
  | cons st r => exact if_pos hc

theorem decodeFrame_cons_of_xor_eq_zero {st : Byte} {r : List Byte} (hx : xorBytes (st :: r) = 0) :
    decodeFrame (st :: r) = .ok st (unpack (st :: r)) (bodyXor (st :: r)) :=
  if_neg (not_not.2 ((bodyXor_eq_lastByte_iff (List.cons_ne_nil st r)).2 hx))

theorem exists_decodeFrame_ok {r : List Byte} (hr : r ≠ []) (hx : xorBytes r = 0) :
    ∃ st p c, decodeFrame r = .ok st p c := by
  cases r with
  | nil => exact absurd rfl hr
  | cons st r => exact ⟨_, _, _, decodeFrame_cons_of_xor_eq_zero hx⟩

/-- Whatever decodes is a response whose bytes XOR to 0 (R134). -/
theorem xorBytes_eq_zero_of_decodeFrame_ok {r : List Byte} {st : Byte} {p : List Byte} {c : Byte}
    (h : decodeFrame r = .ok st p c) : xorBytes r = 0 := by
  obtain ⟨hr, -, -, hcheck, -⟩ := decodeFrame_ok h
  exact (bodyXor_eq_lastByte_iff hr).1 hcheck

/-- A byte changed by a mask changes the computed checksum by that mask, unless it is the last. -/
theorem bodyXor_modify_xor {r : List Byte} {i : Nat} (m : Byte) (hi : i < r.length) :
    bodyXor (r.modify i fun x => x ^^^ m) =
      if i + 1 < r.length then bodyXor r ^^^ m else bodyXor r := by
  have htake : bodyXor (r.modify i fun x => x ^^^ m) =
      xorBytes (r.dropLast.modify i fun x => x ^^^ m) := by
    simp only [bodyXor, List.dropLast_eq_take, List.length_modify, List.take_modify]
  rw [htake]
  split
  case isTrue h => exact xorBytes_modify_xor m (by rw [List.length_dropLast]; omega)
  case isFalse h => rw [List.modify_eq_self (by rw [List.length_dropLast]; omega)]; rfl

/-- A byte has a bit at each position below 8. -/
theorem bitMask_ne_zero {b : Nat} (hb : b < 8) : (1#8 <<< b) ≠ 0 := by
  interval_cases b <;> decide

/-- Settles O9: the exclusive-or of the whole response is 0, one flip makes it the flipped bit, and
a second flip of that bit position makes it 0 again. -/
theorem singleBitFlipDetected : Obligations.SingleBitFlipDetected := by
  unfold Obligations.SingleBitFlipDetected
  intro r st p c h
  have hx := xorBytes_eq_zero_of_decodeFrame_ok h
  obtain ⟨hr, rfl, -⟩ := decodeFrame_ok h
  refine ⟨fun i b hi hb => ?_, fun i j b hi hj _ _ => ?_⟩
  · have hflip : xorBytes (r.modify i fun x => x ^^^ (1#8 <<< b)) ≠ 0 := by
      rw [xorBytes_modify_xor _ hi, hx, BitVec.ofNat_eq_ofNat, BitVec.zero_xor]
      exact bitMask_ne_zero hb
    rw [decodeFrame_of_xor_ne_zero (by simpa using hr) hflip, bodyXor_modify_xor _ hi]
  · refine exists_decodeFrame_ok (by simpa using hr) ?_
    rw [xorBytes_modify_xor _ (by simpa using hj), xorBytes_modify_xor _ hi, hx,
      BitVec.xor_assoc, BitVec.xor_self, BitVec.xor_zero]

/-! ### Request frames (R110, R131) -/

/-- Only an overflow keeps EncodeFrame from the frame of R110. -/
theorem eq_requestFrame_of_encodeFrame {cap : Nat} {p f : List Byte} {a : Byte}
    (h : encodeFrame cap p a = some f) : f = requestFrame a p := by
  obtain ⟨-, he⟩ | ⟨-, he⟩ := encodeFrame_cases cap p a
  · rw [he] at h; cases h
  · rw [he] at h; exact (Option.some.inj h).symm

/-- A frame is its bytes up to ETX followed by the checksum byte. -/
theorem requestFrame_eq_append (a : Byte) (p : List Byte) :
    requestFrame a p = (((a ||| 0x80) :: p) ++ [0x03]) ++ [xorBytes p ^^^ 0x03] := by
  simp [requestFrame]

theorem bodyXor_requestFrame (a : Byte) (p : List Byte) :
    bodyXor (requestFrame a p) = (a ||| 0x80) ^^^ (xorBytes p ^^^ 0x03) := by
  rw [requestFrame_eq_append, bodyXor_append_singleton, xorBytes_append, xorBytes_singleton,
    xorBytes, BitVec.xor_assoc]

@[simp] theorem lastByte_requestFrame (a : Byte) (p : List Byte) :
    lastByte (requestFrame a p) = xorBytes p ^^^ 0x03 := by
  rw [requestFrame_eq_append, lastByte_append_singleton]

@[simp] theorem length_requestFrame (a : Byte) (p : List Byte) :
    (requestFrame a p).length = p.length + 3 := by
  simp [requestFrame]

/-- The checksum of a request leaves the address byte out, so the address byte is what its bytes XOR
to. -/
theorem xorBytes_requestFrame (a : Byte) (p : List Byte) :
    xorBytes (requestFrame a p) = a ||| 0x80 := by
  rw [requestFrame_eq_append, xorBytes_append, xorBytes_append, xorBytes_singleton,
    xorBytes_singleton, xorBytes, BitVec.xor_assoc, BitVec.xor_assoc,
    ← BitVec.xor_assoc (xorBytes p), BitVec.xor_self, BitVec.xor_zero]

/-- The marker bit of R110 is set in every request's address byte. -/
theorem or_addrMark_ne_zero (a : Byte) : a ||| 0x80 ≠ 0 := by
  intro h
  have hbit := congrArg (fun x : Byte => x.getLsbD 7) h
  simp at hbit

/-- Settles O10: the bytes of a request XOR to its address byte, which the marker bit keeps from
0. -/
theorem requestFrameNeverValidResponse : Obligations.RequestFrameNeverValidResponse := by
  unfold Obligations.RequestFrameNeverValidResponse
  intro cap p f a h
  obtain rfl := eq_requestFrame_of_encodeFrame h
  have hx : xorBytes (requestFrame a p) ≠ 0 := by
    rw [xorBytes_requestFrame]
    exact or_addrMark_ne_zero a
  refine ⟨rfl, ?_⟩
  rw [decodeFrame_of_xor_ne_zero (by simp [requestFrame]) hx, bodyXor_requestFrame]

/-! ### Responses (R111, R134, R135) -/

/-- A status, a body and their checksum decode to the status and the kept bytes of the body before
its first ETX. -/
theorem decodeFrame_response (st : Byte) (body : List Byte) :
    decodeFrame (st :: body ++ [xorBytes (st :: body)]) =
      .ok st ((body.takeWhile fun b => b != 0x03).filter keepByte) (xorBytes (st :: body)) := by
  have hx : xorBytes (st :: (body ++ [xorBytes (st :: body)])) = 0 := by
    rw [← List.cons_append, xorBytes_append, xorBytes_singleton]
    exact BitVec.xor_self
  have hbody : unpack (st :: (body ++ [xorBytes (st :: body)])) =
      (body.takeWhile fun b => b != 0x03).filter keepByte := by
    simp [unpack, Config.etx]
  rw [List.cons_append, decodeFrame_cons_of_xor_eq_zero hx, hbody, ← List.cons_append,
    bodyXor_append_singleton]

/-- A closing ETX ends the payload, as its end does. -/
theorem takeWhile_append_etx (p : List Byte) :
    (p ++ [0x03]).takeWhile (fun b => b != 0x03) = p.takeWhile fun b => b != 0x03 := by
  induction p with
  | nil => rfl
  | cons b p ih => simp only [List.cons_append, List.takeWhile_cons, ih]

/-- ETX is no byte that R135 keeps. -/
theorem ne_etx_of_keepByte {b : Byte} (h : keepByte b = true) : b ≠ 0x03 := by
  rintro rfl
  exact absurd h (by decide)

/-- Settles O11: a response is a status, a body and their checksum, whether the body ends in ETX or
not. -/
theorem responseRoundTrip : Obligations.ResponseRoundTrip := by
  unfold Obligations.ResponseRoundTrip
  refine ⟨fun st p => ⟨⟨xorBytes (st :: (p ++ [0x03])), ?_⟩, _, decodeFrame_response st p⟩,
    fun p hp => ?_⟩
  · have hclosed : st :: p ++ [0x03, xorBytes (st :: p) ^^^ 0x03] =
        st :: (p ++ [0x03]) ++ [xorBytes (st :: (p ++ [0x03]))] := by
      rw [← List.cons_append, xorBytes_append, xorBytes_singleton, List.append_assoc]
      rfl
    rw [hclosed, decodeFrame_response, takeWhile_append_etx]
  · rw [List.takeWhile_eq_self_iff.2 fun b hb => bne_iff_ne.2 (ne_etx_of_keepByte (hp b hb)),
      List.filter_eq_self.2 hp]

/-! ### The end of a command as a whole state (R302) -/

theorem complete_none_eq (s : State) : s.complete .none = { s with
    eng := .ready, cont := .none, err := ⟨.none, .none, 0, .sn⟩
    irqPend := s.irqPend ||| 0b000001 } := by
  simp [State.complete, Irq.mask]

theorem complete_error_eq (s : State) {c : Code} (hc : c ≠ .none) : s.complete c = { s with
    eng := .ready, cont := .none, err := ⟨c, .none, 0, .sn⟩
    irqPend := s.irqPend ||| 0b000011 } := by
  simp [State.complete, Irq.mask, hc, BitVec.or_assoc]

/-! ### Acceptance of ENCODE, VERIFY and DECODE (R100) -/

theorem preEncode_eq_configError {k : Kind} {s : State}
    (h : s.params.cmdBufCap < (s.cmdLen k).toNat) : preEncode k s = some .configError := by
  simp [preEncode, firstFailure, needCmdLen, h]

theorem preEncode_eq_none {k : Kind} {s : State}
    (h : (s.cmdLen k).toNat ≤ s.params.cmdBufCap) : preEncode k s = none :=
  (firstFailure_eq_none _).2 (by simpa [needCmdLen] using h)

theorem preCheck_eq_configError {s : State} (h : s.params.rxCap < s.rxLen.toNat) :
    preCheck s = some .configError := by
  simp [preCheck, firstFailure, needRxLen, h]

theorem preCheck_eq_none {s : State} (h : s.rxLen.toNat ≤ s.params.rxCap) : preCheck s = none :=
  (firstFailure_eq_none _).2 (by simpa [needRxLen] using h)

section
variable {s : State} (he : s.eng = .ready)
include he

theorem exec_encode_rejected {k : Kind} (a : Byte)
    (h : s.params.cmdBufCap < (s.cmdLen k).toNat) :
    exec (.encode k a) s = .next (s.reject .configError 0x01) := by
  rw [← opOf_encode k a]
  exact issue_reject s _ _ _ _ he (preEncode_eq_configError h)

theorem exec_verify_rejected (h : s.params.rxCap < s.rxLen.toNat) :
    exec .verify s = .next (s.reject .configError 0x02) := by
  rw [← opOf_verify]
  exact issue_reject s _ _ _ _ he (preCheck_eq_configError h)

theorem exec_decode_rejected (h : s.params.rxCap < s.rxLen.toNat) :
    exec .decode s = .next (s.reject .configError 0x03) := by
  rw [← opOf_decode]
  exact issue_reject s _ _ _ _ he (preCheck_eq_configError h)

variable (hd : s.defer = false)
include hd

theorem exec_encode_accepted {k : Kind} (a : Byte)
    (h : (s.cmdLen k).toNat ≤ s.params.cmdBufCap) :
    exec (.encode k a) s = .next (runEncode k a { s with eng := .cmd }) :=
  issue_launch_now he (preEncode_eq_none h) hd

theorem exec_verify_accepted (h : s.rxLen.toNat ≤ s.params.rxCap) :
    exec .verify s = .next (runVerify { s with eng := .cmd }) :=
  issue_launch_now he (preCheck_eq_none h) hd

theorem exec_decode_accepted (h : s.rxLen.toNat ≤ s.params.rxCap) :
    exec .decode s = .next (runDecode { s with eng := .cmd }) :=
  issue_launch_now he (preCheck_eq_none h) hd

end

/-! ### ENCODE (R130) -/

theorem cmdLen_setEng (s : State) (e : Eng) (k : Kind) :
    State.cmdLen { s with eng := e } k = s.cmdLen k := by
  cases k <;> rfl

theorem payload_setEng (s : State) (e : Eng) (k : Kind) :
    State.payload { s with eng := e } k = s.payload k :=
  payload_congr k rfl rfl (cmdLen_setEng s e k)

theorem length_payload (s : State) (k : Kind) : (s.payload k).length = (s.cmdLen k).toNat :=
  length_bytesAt s _ _

theorem runEncode_overflow {k : Kind} {s : State} (a : Byte)
    (h : s.params.txCap < (s.cmdLen k).toNat + 3) :
    runEncode k a s = s.dropFrame.complete .encodingOverflow := by
  simp only [runEncode, encodeFrame_payload_none k a h]

theorem runEncode_fits {k : Kind} {s : State} (a : Byte)
    (h : (s.cmdLen k).toNat + 3 ≤ s.params.txCap) :
    runEncode k a s = (s.loadFrame (requestFrame a (s.payload k))).complete .none := by
  simp only [runEncode, encodeFrame_payload k a h]

/-- Settles O12: the capacity of CMDBUF decides acceptance, and the length of the frame against
TX_CAP decides between overflow and the frame in TXBUF. -/
theorem encodeCommandBuildsFrame : Obligations.EncodeCommandBuildsFrame := by
  unfold Obligations.EncodeCommandBuildsFrame
  intro k a s he hd
  refine ⟨exec_encode_rejected he a, fun hok hover => ?_, fun hok hfit => ?_⟩
  · rw [exec_encode_accepted he hd a hok, runEncode_overflow a (by rwa [cmdLen_setEng]),
      complete_error_eq _ (by decide)]
    rfl
  · have hexec : exec (.encode k a) s = .next ((State.loadFrame { s with eng := .cmd }
        (requestFrame a (s.payload k))).complete .none) := by
      rw [exec_encode_accepted he hd a hok, runEncode_fits a (by rwa [cmdLen_setEng]),
        payload_setEng]
    refine ⟨_, hexec, ?_, storesAt_of _ _ rfl rfl⟩
    rw [complete_none_eq]
    simp only [State.loadFrame, lastByte_requestFrame, length_requestFrame, length_payload]

/-! ### RXBUF as VERIFY and DECODE read it -/

theorem bytesAt_succ (s : State) (base n : Nat) :
    s.bytesAt base (n + 1) = s.bytesAt base n ++ [s.byteAt (base + n)] := by
  simp [State.bytesAt, List.range_succ]

theorem rxBytes_of_rxLen_zero {s : State} (h : s.rxLen = 0) : s.rxBytes = [] := by
  simp [State.rxBytes, State.bytesAt, h]

/-- A nonempty response is the bytes before its last and the last. -/
theorem rxBytes_eq_append {s : State} (h : s.rxLen ≠ 0) :
    s.rxBytes = s.bytesAt 0x2000 (s.rxLen.toNat - 1) ++
      [s.byteAt (0x2000 + (s.rxLen.toNat - 1))] := by
  have hpos : s.rxLen.toNat ≠ 0 := fun e => h (BitVec.eq_of_toNat_eq e)
  rw [← bytesAt_succ, Nat.sub_add_cancel (Nat.pos_of_ne_zero hpos)]
  rfl

theorem rxLen_ne_zero_of_rxBytes {s : State} (h : s.rxBytes ≠ []) : s.rxLen ≠ 0 :=
  fun h0 => h (rxBytes_of_rxLen_zero h0)

theorem lastByte_rxBytes {s : State} (h : s.rxBytes ≠ []) :
    lastByte s.rxBytes = s.byteAt (0x2000 + (s.rxLen.toNat - 1)) := by
  rw [rxBytes_eq_append (rxLen_ne_zero_of_rxBytes h), lastByte_append_singleton]

theorem noteChk_of_ne_nil (s : State) {r : List Byte} (h : r ≠ []) :
    s.noteChk r = { s with chk := ⟨bodyXor r, lastByte r⟩ } := by
  simp only [State.noteChk, if_neg h]

/-! ### VERIFY (R132) -/

theorem runVerify_empty {s : State} (h : s.rxBytes = []) :
    runVerify s = s.complete .emptyResponse := by
  simp only [runVerify, h]

theorem runVerify_nonempty {s : State} (h : s.rxBytes ≠ []) :
    runVerify s = (s.noteChk s.rxBytes).complete
      (if bodyXor s.rxBytes = lastByte s.rxBytes then .none else .checksumMismatch) := by
  unfold runVerify
  split
  case h_1 he => exact absurd he h
  case h_2 => rw [ite_not]

/-- Settles O13: RX_LEN decides between rejection, EmptyResponse and the check, and the check's
verdict is the completion. -/
theorem verifyCommandChecks : Obligations.VerifyCommandChecks := by
  unfold Obligations.VerifyCommandChecks
  intro s he hd
  refine ⟨exec_verify_rejected he, fun hok hzero => ?_, fun hok hpos => ?_⟩
  · have hrx : State.rxBytes { s with eng := .cmd } = [] := rxBytes_of_rxLen_zero hzero
    rw [exec_verify_accepted he hd hok, runVerify_empty hrx, complete_error_eq _ (by decide)]
  · have hrx : State.rxBytes { s with eng := .cmd } = s.bytesAt 0x2000 (s.rxLen.toNat - 1) ++
        [s.byteAt (0x2000 + (s.rxLen.toNat - 1))] :=
      rxBytes_eq_append (s := { s with eng := .cmd }) hpos
    have hne : State.rxBytes { s with eng := .cmd } ≠ [] := by simp [hrx]
    rw [exec_verify_accepted he hd hok, runVerify_nonempty hne, noteChk_of_ne_nil _ hne, hrx,
      bodyXor_append_singleton, lastByte_append_singleton]
    by_cases hcheck : xorBytes (s.bytesAt 0x2000 (s.rxLen.toNat - 1)) =
        s.byteAt (0x2000 + (s.rxLen.toNat - 1))
    · simp only [if_pos hcheck, complete_none_eq]
    · simp only [if_neg hcheck]
      exact congrArg _ (complete_error_eq _ (by decide))

/-! ### DECODE (R133) -/

theorem runDecode_empty {s : State} (h : s.rxBytes = []) :
    runDecode s = s.complete .emptyResponse := by
  simp only [runDecode, h, decodeFrame, State.noteChk, if_true]

theorem runDecode_mismatch {s : State} {c : Byte} (h : decodeFrame s.rxBytes = .mismatch c) :
    runDecode s = State.complete
      { s with chk := ⟨c, s.byteAt (0x2000 + (s.rxLen.toNat - 1))⟩ } .checksumMismatch := by
  obtain ⟨hne, rfl⟩ := decodeFrame_mismatch h
  simp only [runDecode, h, noteChk_of_ne_nil s hne, lastByte_rxBytes hne]

theorem runDecode_ok {s : State} {st : Byte} {p : List Byte} {c : Byte}
    (h : decodeFrame s.rxBytes = .ok st p c) :
    runDecode s = (State.storeResult
      { s with chk := ⟨c, s.byteAt (0x2000 + (s.rxLen.toNat - 1))⟩ } st p).complete .none := by
  obtain ⟨hne, rfl, -⟩ := decodeFrame_ok h
  simp only [runDecode, h, noteChk_of_ne_nil s hne, lastByte_rxBytes hne]

/-- Settles O14: an accepted DECODE ends as DecodeFrame of RXBUF says, with CHK noted of a nonempty
response. -/
theorem decodeCommandUnpacks : Obligations.DecodeCommandUnpacks := by
  unfold Obligations.DecodeCommandUnpacks
  intro s he hd
  refine ⟨exec_decode_rejected he, fun hok hzero => ?_, fun c hok hdec => ?_,
    fun st p c hok hdec => ?_⟩
  · have hrx : State.rxBytes { s with eng := .cmd } = [] := rxBytes_of_rxLen_zero hzero
    rw [exec_decode_accepted he hd hok, runDecode_empty hrx, complete_error_eq _ (by decide)]
  · have hrx : decodeFrame (State.rxBytes { s with eng := .cmd }) = .mismatch c := hdec
    rw [exec_decode_accepted he hd hok, runDecode_mismatch hrx, complete_error_eq _ (by decide)]
    rfl
  · have hrx : decodeFrame (State.rxBytes { s with eng := .cmd }) = .ok st p c := hdec
    refine ⟨_, (exec_decode_accepted he hd hok).trans (congrArg _ (runDecode_ok hrx)), ?_,
      storesAt_of _ _ rfl rfl⟩
    rw [complete_none_eq]
    rfl

end Sys2Proof.Machine
end

section
/-! PROOFS. The device session family: the acceptance of OPEN, CLOSE and SEND (R160, R161, R162),
and what the transport's answer to an open or a send makes of the state (R164). -/

namespace Sys2Proof.Machine

/-! ### A transport call that is answered (R164) -/

/-- A command that waits for an open or a send takes the answer and runs on to `t` from there,
in the same step: the release (`resume`) is set and used up within it. -/
theorem step_answer_runs {s t : State} {c : Cont} {tag : Nat} {req : TpReq} {a : TpAnswer}
    {rest : List Move} (h : s.Calls c tag req (answerMove tag a) rest)
    (ha : req.allows s.params.rxCap a = true) (hf : c.fits (.answered a) = true)
    (ht : runFrom c (.answered a) { s with inputs := rest, defer := false, tpReq := none } = t)
    (hs : t.cont ≠ .spin) : step s = .next t := by
  obtain rfl := h.cont
  rw [step_answer h ha]
  refine settle_run (r := .answered a) ?_ ?_ ?_ t ?_ hs
  exacts [rfl, rfl, hf, by rw [← ht, h.resume]]

/-! ### Preconditions (R160, R162) -/

theorem preOpen_of_open {s : State} (h : s.tpOpen = true) :
    preOpen s = some .transportStateError := by
  simp [preOpen, firstFailure, h]

theorem preOpen_of_closed {s : State} (h : s.tpOpen = false) : preOpen s = none :=
  (firstFailure_eq_none _).2 (by simpa using h)

theorem preSend_of_closed {s : State} (h : s.tpOpen = false) :
    preSend s = some .transportStateError := by
  simp [preSend, firstFailure, needOpen, h]

theorem preSend_of_noFrame {s : State} (h : s.tpOpen = true) (hv : s.txValid = false) :
    preSend s = some .noFrame := by
  simp [preSend, firstFailure, needOpen, h, hv]

theorem preSend_of_frame {s : State} (h : s.tpOpen = true) (hv : s.txValid = true) :
    preSend s = none :=
  (firstFailure_eq_none _).2 (by simp [needOpen, h, hv])

/-! ### OPEN (R160) -/

theorem openAnswered_ok (s : State) :
    openAnswered true s = State.complete { s with tpOpen := true } .none := rfl

theorem openAnswered_fail (s : State) :
    openAnswered false s = s.complete .transportOpenFailure := rfl

/-- Settles O15: TP_OPEN decides between rejection and the open request, and the answer is the
completion. -/
theorem openCommandOpens : Obligations.OpenCommandOpens := by
  unfold Obligations.OpenCommandOpens
  refine ⟨fun s he hd => ⟨fun hopen => ?rejected, fun hclosed => ?requested⟩,
    fun s tag b d p st rest => ⟨fun hcall => ?ok, fun hcall => ?fail⟩⟩
  case rejected =>
    rw [← opOf_openTp]
    exact issue_reject s _ _ _ _ he (preOpen_of_open hopen)
  case requested => exact issue_launch_now he (preOpen_of_closed hclosed) hd
  case ok =>
    refine step_answer_runs hcall rfl rfl ?_ nofun
    exact (openAnswered_ok _).trans (complete_none_eq _)
  case fail =>
    refine step_answer_runs hcall rfl rfl ?_ nofun
    exact (openAnswered_fail _).trans (complete_error_eq _ (by decide))

/-! ### SEND (R162) -/

theorem sendAnswered_ok (s : State) : sendAnswered true s = s.complete .none := rfl

theorem sendAnswered_fail (s : State) : sendAnswered false s = s.complete .sendFailure := rfl

/-- Settles O17: TP_OPEN and then TX_VALID decide acceptance, and the answer is the completion. -/
theorem sendCommandSends : Obligations.SendCommandSends := by
  unfold Obligations.SendCommandSends
  refine ⟨fun s he hd => ⟨fun hclosed => ?closed, fun hopen hnone => ?noFrame,
      fun hopen hframe => ?requested⟩,
    fun s tag f rest => ⟨fun hcall => ?ok, fun hcall => ?fail⟩⟩
  case closed =>
    rw [← opOf_send]
    exact issue_reject s _ _ _ _ he (preSend_of_closed hclosed)
  case noFrame =>
    rw [← opOf_send]
    exact issue_reject s _ _ _ _ he (preSend_of_noFrame hopen hnone)
  case requested => exact issue_launch_now he (preSend_of_frame hopen hframe) hd
  case ok =>
    refine step_answer_runs hcall rfl rfl ?_ nofun
    exact (sendAnswered_ok _).trans (complete_none_eq _)
  case fail =>
    refine step_answer_runs hcall rfl rfl ?_ nofun
    exact (sendAnswered_fail _).trans (complete_error_eq _ (by decide))

/-! ### CLOSE (R161) -/

theorem runClose_of_open {s : State} (h : s.tpOpen = true) :
    runClose s = s.closeTp.complete .none := by
  simp only [runClose, if_pos h]

theorem runClose_of_closed {s : State} (h : s.tpOpen = false) : runClose s = s.complete .none := by
  simp [runClose, h]

theorem exec_close_accepted {s : State} (he : s.eng = .ready) (hd : s.defer = false) :
    exec .closeTp s = .next (runClose { s with eng := .cmd }) :=
  issue_launch_now (pre := preNone) he rfl hd

/-- Settles O16: CLOSE has no precondition, and TP_OPEN decides whether a close is issued. -/
theorem closeCommandCloses : Obligations.CloseCommandCloses := by
  unfold Obligations.CloseCommandCloses
  refine fun s he hd => ⟨fun hopen => ?_, fun hclosed => ?_⟩
  · rw [exec_close_accepted he hd, runClose_of_open (s := { s with eng := .cmd }) hopen,
      complete_none_eq]
    rfl
  · rw [exec_close_accepted he hd, runClose_of_closed (s := { s with eng := .cmd }) hclosed,
      complete_none_eq]

end Sys2Proof.Machine
end

section
/-! PROOFS. The exceptions family: the event log as a bounded FIFO (R306, R45) and the interrupt output
and its pending bits (R309, R31), with the rules for a word access of a register (R71, R73, R74). -/

namespace Sys2Proof.Machine

/-! ### Word accesses of a register (R71, R73, R74) -/

theorem Reg.offset_lt (r : Reg) : r.offset < 0x100 := by
  cases r <;> decide

/-- No two registers have one offset, and every register is in the map. -/
theorem Reg.find?_offset (r : Reg) :
    Reg.all.find? (fun q => q.offset == r.offset) = some r := by
  cases r <;> rfl

theorem locate_offset (p : Params) (r : Reg) : locate p r.offset = .reg r := by
  simp only [locate, if_pos r.offset_lt, r.find?_offset]

section RegisterAccess

variable (s : State) {a : HostAddr} {r : Reg} (h : a.toNat = r.offset)
include h

theorem legal_reg_word (p : Params) : legal p a .word = true := by
  rw [legal, h, locate_offset]
  rfl

theorem memRead_reg : s.memRead a .word = s.readReg r := by
  simp only [State.memRead, legal_reg_word h, h, locate_offset, if_true]

theorem afterMemRead_reg : s.afterMemRead a .word = s.afterRead r := by
  simp only [State.afterMemRead, legal_reg_word h, h, locate_offset, if_true]

theorem hostRead_reg :
    hostRead a .word s = { s.afterRead r with hostData := s.readReg r } := by
  rw [hostRead, afterMemRead_reg s h, memRead_reg s h]

theorem memWrite_reg (v : Word) (hlock : (r.rwl && s.locked) = false) :
    s.memWrite a .word v = s.writeReg v r := by
  simp [State.memWrite, legal_reg_word h, h, locate_offset, Loc.rwl, hlock]

end RegisterAccess

/-! ### The event word (R306) -/

section EventWord

variable (c : Code) (sub : Byte) (sl : SlotId) (k : Kind)

theorem eventWord_code : (eventWord c sub sl k).extractLsb' 0 8 = c.byte :=
  BitVec.extractLsb'_append_eq_right

theorem eventWord_sub : (eventWord c sub sl k).extractLsb' 8 8 = sub := by
  rw [eventWord, BitVec.extractLsb'_append_eq_of_le (by decide)]
  exact BitVec.extractLsb'_append_eq_right

theorem eventWord_slot : (eventWord c sub sl k).extractLsb' 16 5 = sl := by
  rw [eventWord, BitVec.extractLsb'_append_eq_of_le (by decide),
    BitVec.extractLsb'_append_eq_of_le (by decide)]
  exact BitVec.extractLsb'_append_eq_right

theorem eventWord_kind : (eventWord c sub sl k).getLsbD 24 = decide (k = .meas) := by
  have hbit : (eventWord c sub sl k).getLsbD 24 = (0#7 ++ k.bit).getLsbD 0 := by
    simp only [eventWord, BitVec.getLsbD_append]
    rfl
  rw [hbit]
  cases k <;> rfl

/-- The mask of the bits that the event word does not list, field by field. -/
theorem eventWord_zeros : eventWord c sub sl k &&& 0xFEE00000 = 0 := by
  have hmask : (0xFEE00000 : Word) = 0x7F#7 ++ 0#1 ++ 7#3 ++ 0#5 ++ 0#8 ++ 0#8 := rfl
  rw [eventWord, hmask]
  iterate 5 rw [BitVec.and_append]
  simp only [BitVec.zero_and, BitVec.and_zero]
  rfl

end EventWord

/-! ### The event log (R306, R45) -/

section EventLog

variable {s : State}

theorem fifoAfter_of_room (h : s.evtFifo.length < s.params.logDepth) (w : Word) :
    s.fifoAfter [w] = s.evtFifo ++ [w] := by
  rw [State.fifoAfter, List.take_of_length_le (by simp; omega)]

theorem ovfAfter_of_room (h : s.evtFifo.length < s.params.logDepth) (w : Word) :
    s.ovfAfter [w] = s.logOvf := by
  have hkept : [w].length - (s.params.logDepth - s.evtFifo.length) = 0 := by simp; omega
  rw [State.ovfAfter, hkept]
  exact BitVec.add_zero _

theorem fifoAfter_of_full (h : s.params.logDepth ≤ s.evtFifo.length) (ws : List Word) :
    s.fifoAfter ws = s.evtFifo := by
  simp [State.fifoAfter, Nat.sub_eq_zero_of_le h]

theorem ovfAfter_of_full (h : s.params.logDepth ≤ s.evtFifo.length) (ws : List Word) :
    s.ovfAfter ws = s.logOvf + BitVec.ofNat 32 ws.length := by
  simp [State.ovfAfter, Nat.sub_eq_zero_of_le h]

theorem log_of_room (h : s.evtFifo.length < s.params.logDepth) (c : Code) (sub : Byte)
    (sl : SlotId) (k : Kind) :
    s.log c sub sl k = { s with
      evtFifo := s.evtFifo ++ [eventWord c sub sl k], irqPend := s.irqPend ||| 0b100000 } := by
  rw [log_eq, fifoAfter_of_room h, ovfAfter_of_room h]

theorem log_of_full (h : s.params.logDepth ≤ s.evtFifo.length) (c : Code) (sub : Byte)
    (sl : SlotId) (k : Kind) :
    s.log c sub sl k =
      { s with logOvf := s.logOvf + 1, irqPend := s.irqPend ||| 0b100000 } := by
  rw [log_eq, fifoAfter_of_full h, ovfAfter_of_full h]
  rfl

theorem evtCount_log_of_room (h : s.evtFifo.length < s.params.logDepth) (c : Code) (sub : Byte)
    (sl : SlotId) (k : Kind) : (s.log c sub sl k).evtCount = s.evtCount + 1 := by
  rw [log_of_room h, State.evtCount, List.length_append, BitVec.ofNat_add]
  rfl

/-- A read of EVT_POP takes the head of the FIFO; both `headD` and `tail` leave an empty FIFO at 0 and
empty. -/
theorem hostRead_evtPop (s : State) :
    hostRead 0x0064 .word s =
      { s with evtFifo := s.evtFifo.tail, hostData := s.evtFifo.headD 0 } :=
  hostRead_reg s (r := .evtPop) rfl

end EventLog

/-- Settles O58: an event is kept while there is room and counted when there is none, and EVT_POP takes
events from the other end. -/
theorem eventLogIsBoundedFifo : Obligations.EventLogIsBoundedFifo := by
  unfold Obligations.EventLogIsBoundedFifo
  refine fun s c sub sl k => ⟨fun hroom => log_of_room hroom c sub sl k,
    fun hfull => log_of_full hfull c sub sl k, fun w r hcons => ?pop, fun hnil => ?empty,
    eventWord_code c sub sl k, eventWord_sub c sub sl k, eventWord_slot c sub sl k,
    eventWord_kind c sub sl k, eventWord_zeros c sub sl k,
    fun hroom => evtCount_log_of_room hroom c sub sl k⟩
  case pop => rw [hostRead_evtPop, hcons, List.tail_cons, List.headD_cons]
  case empty => rw [hostRead_evtPop, hnil, List.tail_nil, List.headD_nil]

/-! ### Interrupts (R309, R31) -/

/-- A vector is nonzero when one of its bits is set. -/
theorem bne_zero_iff_exists_getLsbD {n : Nat} (x : BitVec n) :
    (x != 0) = true ↔ ∃ i, i < n ∧ x.getLsbD i = true := by
  rw [bne_iff_ne]
  refine ⟨fun hne => ?_, fun ⟨i, _, hbit⟩ hzero => by simp [hzero] at hbit⟩
  by_contra hnone
  refine hne (BitVec.eq_of_getLsbD_eq fun i hi => ?_)
  have hclear : x.getLsbD i ≠ true := fun hbit => hnone ⟨i, hi, hbit⟩
  simpa using hclear

theorem irqOut_iff (s : State) :
    s.irqOut = true ↔ ∃ i, i < 6 ∧ s.irqPend.getLsbD i = true ∧ s.irqEn.getLsbD i = true := by
  simp only [State.irqOut, bne_zero_iff_exists_getLsbD, BitVec.getLsbD_and, Bool.and_eq_true]

/-- IRQ_PEND is not locked in any mode, so the write always takes effect (R24, R31). -/
theorem memWrite_irqPend (s : State) (v : Word) :
    s.memWrite 0x0014 .word v = { s with irqPend := s.irqPend &&& ~~~(v.setWidth 6) } :=
  memWrite_reg s (r := .irqPend) rfl v rfl

/-- Settles O59: IRQ is on when a bit is both pending and enabled, and a write to IRQ_PEND masks the
pending bits with the complement of the word written. -/
theorem interruptOutputAndClear : Obligations.InterruptOutputAndClear := by
  unfold Obligations.InterruptOutputAndClear
  refine fun s v => ⟨irqOut_iff s, fun i hi => ?cleared, ?others⟩
  case cleared =>
    rw [memWrite_irqPend]
    simp [hi]
  case others => rw [memWrite_irqPend]

end Sys2Proof.Machine
end

section
/-! PROOFS. The reset family: what the state right after reset reads as (R340), from the computed registers
(STATUS, ERR, REJ, CHK), the interrupt output and the slot file to the parameter words (R46). -/

namespace Sys2Proof.Machine

/-! ### What is computed from the reset state (R26, R29, R30, R32, R309) -/

section ResetState

variable (p : Params)

/-- Every STATUS field is 0: RSTATE is NONE, SSTATE is OFF, and READY is none of BUSY, SCHED_ACTIVE and
HALTED. -/
theorem resetWith_statusWord : (State.resetWith p).statusWord = 0 := by
  have hbusy : (State.resetWith p).busy = false := rfl
  have hsched : (State.resetWith p).schedActive = false := rfl
  have hhalted : (State.resetWith p).isHalted = false := rfl
  rw [State.statusWord, hbusy, hsched, hhalted]
  simp only [State.resetWith]
  rfl

/-- The code NONE is encoded as 0 (R301), and so is the kind SN. -/
theorem resetWith_errWord : (State.resetWith p).errWord = 0 := by
  simp only [State.errWord, State.resetWith]
  rfl

theorem resetWith_rejWord : (State.resetWith p).rejWord = 0 := by
  simp only [State.rejWord, State.resetWith]
  rfl

theorem resetWith_chkWord : (State.resetWith p).chkWord = 0 := by
  simp only [State.chkWord, State.resetWith]
  rfl

/-- Nothing is pending right after reset, so no enabled bit can turn IRQ on. -/
theorem resetWith_irqOut : (State.resetWith p).irqOut = false := by
  rw [Bool.eq_false_iff, ne_eq, irqOut_iff]
  rintro ⟨i, -, hpend, -⟩
  exact absurd hpend (by simp [State.resetWith])

theorem resetWith_evtCount : (State.resetWith p).evtCount = 0 := rfl

/-- The slot file is reset slot by slot, so each slot of it is the slot whose fields have their reset
values (R47). -/
@[simp] theorem resetWith_slot (sl : SlotId) : (State.resetWith p).slot sl = {} :=
  Vector.getElem_replicate sl.isLt

end ResetState

theorem retryWord_reset : ({} : Slot).retryWord = 0 := rfl

/-! ### The parameter words of the build with DOC0's values (R46, R6) -/

theorem param0_default : param0 Params.default = 0x006401E5 := rfl

theorem param1_default : param1 Params.default = 0x00FA0064 := rfl

theorem param2_default : param2 Params.default = 0x10000898 := rfl

theorem param3_default : param3 Params.default = 0x48004B00 := rfl

theorem param4_default : param4 Params.default = 0x102000FF := rfl

theorem param5_default : param5 Params.default = 0x00000019 := rfl

/-- Settles O1: the registers held in the state have the values `State.resetWith` writes down, which `rfl`
reads off in the statement's order; what is computed from them has the lemmas above. -/
theorem resetLeavesResetValues : Obligations.ResetLeavesResetValues := by
  unfold Obligations.ResetLeavesResetValues
  intro p
  refine ⟨rfl, rfl, rfl, rfl, rfl, resetWith_statusWord p, resetWith_errWord p, resetWith_rejWord p,
    resetWith_chkWord p, rfl, rfl, resetWith_irqOut p, rfl, rfl, rfl, rfl, rfl, rfl, rfl, rfl, rfl, rfl,
    rfl, rfl, rfl, rfl, rfl, rfl, rfl, rfl, rfl, rfl, resetWith_evtCount p, rfl, rfl, rfl, rfl, ?slots,
    param0_default, param1_default, param2_default, param3_default, param4_default, param5_default⟩
  case slots =>
    intro sl
    rw [resetWith_slot]
    exact ⟨rfl, rfl, rfl, rfl, retryWord_reset, rfl, rfl, rfl⟩

end Sys2Proof.Machine
end

section
/-! PROOFS. The encoding family, second part: the rows of the command map are disjoint (R103), each command
stands in its own row, and a word of a row is put together from the fields the row reads (R101, R102),
so that decoding is the inverse of encoding. -/

namespace Sys2Proof

/-! ### Disjoint rows (R103) -/

/-- Any two rows of R104 fix some bit that they share to different values. -/
theorem rows_disagree : rows.Pairwise fun r r' => r'.mask &&& r.pattern ≠ r.mask &&& r'.pattern := by
  decide

theorem Row.and_mask_of_fits {r : Row} {w : Word} (h : r.fits w = true) :
    w &&& r.mask = r.pattern := by
  simpa [Row.fits] using h

/-- A word that fits two rows has the bits that both fix from either. -/
theorem Row.shared_bits_of_fits {r r' : Row} {w : Word} (h : r.fits w = true)
    (h' : r'.fits w = true) : r'.mask &&& r.pattern = r.mask &&& r'.pattern := by
  rw [← Row.and_mask_of_fits h, ← Row.and_mask_of_fits h', ← BitVec.and_assoc, ← BitVec.and_assoc,
    BitVec.and_comm r'.mask, BitVec.and_comm r.mask, BitVec.and_assoc, BitVec.and_assoc,
    BitVec.and_comm r'.mask]

/-- Settles O5: two rows that a word fits would agree on every bit both fix, and no two rows do. -/
theorem commandRowsDisjoint : Obligations.CommandRowsDisjoint := by
  unfold Obligations.CommandRowsDisjoint
  exact ⟨rfl, rows_disagree.imp fun hne w ⟨h, h'⟩ => hne (Row.shared_bits_of_fits h h')⟩

/-- Among disjoint rows the first that a word fits is any that it fits. -/
theorem find?_fits_of_mem {l : List Row} {r : Row} {w : Word}
    (hl : l.Pairwise fun r r' => ∀ w, ¬ (r.fits w = true ∧ r'.fits w = true))
    (hr : r ∈ l) (hfit : r.fits w = true) : l.find? (fun r => r.fits w) = some r := by
  induction l with
  | nil => cases hr
  | cons x l ih =>
    obtain ⟨hx, hl⟩ := List.pairwise_cons.1 hl
    obtain rfl | hr := List.mem_cons.1 hr
    · exact List.find?_cons_of_pos (p := fun r : Row => r.fits w) hfit
    · exact (List.find?_cons_of_neg (p := fun r : Row => r.fits w)
        fun hfx => hx r hr w ⟨hfx, hfit⟩).trans (ih hl hr)

/-- A word decodes to what any row it fits builds (R103). -/
theorem decode_of_fits {r : Row} {w : Word} (hr : r ∈ rows) (hfit : r.fits w = true) :
    decode w = .ok (r.build w) := by
  simp only [decode, find?_fits_of_mem commandRowsDisjoint.2 hr hfit]

/-- A word that decodes to a command fits a row that builds it. -/
theorem exists_build_of_decode {w : Word} {i : Instr} (h : decode w = .ok i) :
    ∃ r ∈ rows, r.fits w = true ∧ r.build w = i := by
  obtain ⟨r, hr, hfit⟩ := exists_row_of_decode h
  rw [decode_of_fits hr hfit] at h
  exact ⟨r, hr, hfit, Except.ok.inj h⟩

/-! ### The fields of an encoded command (R102) -/

theorem bit_fieldKind (w : Word) : (fieldKind w).bit = w.extractLsb' 24 1 := by
  apply BitVec.eq_of_getLsbD_eq
  intro i hi
  obtain rfl : i = 0 := by omega
  rw [BitVec.getLsbD_extractLsb']
  unfold fieldKind
  split
  case isTrue h => rw [h]; rfl
  case isFalse h => rw [Bool.eq_false_iff.2 h]; rfl

theorem fieldKind_of_bit {w : Word} {k : Kind} (h : w.getLsbD 24 = k.bit.getLsbD 0) :
    fieldKind w = k := by
  unfold fieldKind
  rw [h]
  cases k <;> rfl

/-- The bits of a word that a row fixes are the row's. -/
theorem Row.field_of_fits {r : Row} {w : Word} (hfit : r.fits w = true) (start len : Nat)
    (hmask : r.mask.extractLsb' start len = BitVec.allOnes len) :
    r.pattern.extractLsb' start len = w.extractLsb' start len := by
  rw [← Row.and_mask_of_fits hfit, BitVec.extractLsb'_and, hmask, BitVec.and_allOnes]

/-- Adjacent fields of a word are one field. -/
theorem extractLsb'_append_adjacent (w : Word) (start next len len' : Nat)
    (h : start = next + len') :
    w.extractLsb' start len ++ w.extractLsb' next len' = w.extractLsb' next (len + len') := by
  subst h
  apply BitVec.eq_of_getLsbD_eq
  intro i hi
  simp only [BitVec.getLsbD_append, BitVec.getLsbD_extractLsb']
  by_cases hlow : i < len'
  · simp [hlow, hi]
  · have hadd : next + len' + (i - len') = next + i := by omega
    simp [hlow, hi, hadd, (by omega : i - len' < len)]

/-- A word is its fields of format CA (R101). -/
theorem word_eq_fields_CA (w : Word) :
    w.extractLsb' 25 7 ++ w.extractLsb' 24 1 ++ w.extractLsb' 16 8 ++ w.extractLsb' 8 8 ++
      w.extractLsb' 0 8 = w := by
  rw [extractLsb'_append_adjacent w 25 24 7 1 rfl, extractLsb'_append_adjacent w 24 16 8 8 rfl,
    extractLsb'_append_adjacent w 16 8 16 8 rfl, extractLsb'_append_adjacent w 8 0 24 8 rfl]
  exact BitVec.extractLsb'_eq_self

/-- A word is its fields of format CS (R101). -/
theorem word_eq_fields_CS (w : Word) :
    w.extractLsb' 25 7 ++ w.extractLsb' 24 1 ++ w.extractLsb' 21 3 ++ w.extractLsb' 16 5 ++
      w.extractLsb' 8 8 ++ w.extractLsb' 0 8 = w := by
  rw [extractLsb'_append_adjacent w 25 24 7 1 rfl, extractLsb'_append_adjacent w 24 21 8 3 rfl,
    extractLsb'_append_adjacent w 21 16 11 5 rfl, extractLsb'_append_adjacent w 16 8 16 8 rfl,
    extractLsb'_append_adjacent w 8 0 24 8 rfl]
  exact BitVec.extractLsb'_eq_self

/-- A word is its fields of format CC (R101). -/
theorem word_eq_fields_CC (w : Word) :
    w.extractLsb' 16 16 ++ w.extractLsb' 8 8 ++ w.extractLsb' 0 8 = w := by
  rw [extractLsb'_append_adjacent w 16 8 16 8 rfl, extractLsb'_append_adjacent w 8 0 24 8 rfl]
  exact BitVec.extractLsb'_eq_self

/-- A word is its fields of format CD (R101). -/
theorem word_eq_fields_CD (w : Word) : w.extractLsb' 8 24 ++ w.extractLsb' 0 8 = w := by
  rw [extractLsb'_append_adjacent w 8 0 24 8 rfl]
  exact BitVec.extractLsb'_eq_self

/-- A row that leaves no bit free is fit by its pattern alone. -/
theorem Row.eq_pattern_of_fits {r : Row} {w : Word} (hfit : r.fits w = true)
    (hmask : r.mask = 0xFFFFFFFF) : w = r.pattern := by
  have hall : (0xFFFFFFFF : Word) = BitVec.allOnes 32 := rfl
  rw [← Row.and_mask_of_fits hfit, hmask, hall, BitVec.and_allOnes]

theorem encode_build_C0 {i : Instr} {p : Word} (h : encode i = p) (w : Word)
    (hfit : Row.fits ⟨0xFFFFFFFF, p, fun _ => i⟩ w = true) : encode i = w :=
  h.trans (Row.eq_pattern_of_fits hfit rfl).symm

/-- The command that a row builds from a word is encoded by the word: the fields the row reads are the
word's, and the bits it fixes are the encoding's. -/
theorem encode_build_of_fits :
    ∀ r ∈ rows, ∀ w, r.fits w = true → encode (r.build w) = w := by
  simp only [rows, List.forall_mem_cons]
  refine ⟨?encode, encode_build_C0 rfl, encode_build_C0 rfl, encode_build_C0 rfl, encode_build_C0 rfl,
    encode_build_C0 rfl, encode_build_C0 rfl, encode_build_C0 rfl, ?query, ?transactSn, ?transactMeas,
    encode_build_C0 rfl, encode_build_C0 rfl, ?resultAck, ?delay, by simp⟩
  all_goals
    intro w hfit
    have hfix := Row.field_of_fits hfit
  case encode =>
    conv_rhs => rw [← word_eq_fields_CA w, ← hfix 25 7 rfl, ← hfix 16 8 rfl, ← hfix 0 8 rfl,
      ← bit_fieldKind]
    rfl
  case query =>
    conv_rhs => rw [← word_eq_fields_CS w, ← hfix 25 7 rfl, ← hfix 21 3 rfl, ← hfix 8 8 rfl,
      ← hfix 0 8 rfl, ← bit_fieldKind]
    rfl
  case transactSn =>
    conv_rhs => rw [← word_eq_fields_CS w, ← hfix 25 7 rfl, ← hfix 24 1 rfl, ← hfix 21 3 rfl,
      ← hfix 8 8 rfl, ← hfix 0 8 rfl]
    rfl
  case transactMeas =>
    conv_rhs => rw [← word_eq_fields_CS w, ← hfix 25 7 rfl, ← hfix 24 1 rfl, ← hfix 21 3 rfl,
      ← hfix 8 8 rfl, ← hfix 0 8 rfl]
    rfl
  case resultAck =>
    conv_rhs => rw [← word_eq_fields_CC w, ← hfix 16 16 rfl, ← hfix 0 8 rfl]
    rfl
  case delay =>
    conv_rhs => rw [← word_eq_fields_CD w, ← hfix 0 8 rfl]
    rfl

/-! ### The row of a command (R104) -/

/-- The row of the command map in which a command stands. -/
def Instr.row : Instr → Row
  | .encode _ _ => rows[0]
  | .verify => rows[1]
  | .decode => rows[2]
  | .openTp => rows[3]
  | .closeTp => rows[4]
  | .send => rows[5]
  | .recv => rows[6]
  | .flush => rows[7]
  | .query _ _ => rows[8]
  | .transactSn _ => rows[9]
  | .transactMeas _ => rows[10]
  | .scanStart => rows[11]
  | .shutdown => rows[12]
  | .resultAck _ => rows[13]
  | .delay _ => rows[14]

theorem Instr.row_mem (i : Instr) : i.row ∈ rows := by
  cases i <;> exact List.getElem_mem _

theorem fieldKind_encode (k : Kind) (a : Byte) : fieldKind (encode (.encode k a)) = k := by
  apply fieldKind_of_bit
  simp only [encode, BitVec.getLsbD_append]
  rfl

theorem fieldAddr_encode (k : Kind) (a : Byte) : fieldAddr (encode (.encode k a)) = a := by
  rw [fieldAddr, encode, BitVec.extractLsb'_append_eq_of_le (by decide)]
  exact BitVec.extractLsb'_append_eq_right

theorem fieldKind_query (k : Kind) (sl : SlotId) : fieldKind (encode (.query k sl)) = k := by
  apply fieldKind_of_bit
  simp only [encode, BitVec.getLsbD_append]
  rfl

/-- SLOT of a word of format CS (R101). -/
theorem fieldSlot_CS (x : BitVec 11) (sl : SlotId) (op : Byte) :
    fieldSlot (x ++ sl ++ 0#8 ++ op) = sl := by
  rw [fieldSlot, BitVec.extractLsb'_append_eq_of_le (by decide),
    BitVec.extractLsb'_append_eq_of_le (by decide)]
  exact BitVec.extractLsb'_append_eq_right

theorem fieldCode_resultAck (c : Byte) : fieldCode (encode (.resultAck c)) = c := by
  rw [fieldCode, encode, BitVec.extractLsb'_append_eq_of_le (by decide)]
  exact BitVec.extractLsb'_append_eq_right

theorem fieldMs_delay (ms : BitVec 24) : fieldMs (encode (.delay ms)) = ms := by
  rw [fieldMs, encode, BitVec.extractLsb'_append_eq_of_le (by decide)]
  exact BitVec.extractLsb'_eq_self

/-- A row's free fields give the command back from its encoding. -/
theorem Instr.build_encode (i : Instr) : i.row.build (Sys2Proof.encode i) = i := by
  cases i with
  | encode k a => exact congrArg₂ Instr.encode (fieldKind_encode k a) (fieldAddr_encode k a)
  | query k sl => exact congrArg₂ Instr.query (fieldKind_query k sl) (fieldSlot_CS _ sl _)
  | transactSn sl => exact congrArg Instr.transactSn (fieldSlot_CS _ sl _)
  | transactMeas sl => exact congrArg Instr.transactMeas (fieldSlot_CS _ sl _)
  | resultAck c => exact congrArg Instr.resultAck (fieldCode_resultAck c)
  | delay ms => exact congrArg Instr.delay (fieldMs_delay ms)
  | _ => rfl

theorem Row.fits_iff (r : Row) (w : Word) : r.fits w = true ↔ w &&& r.mask = r.pattern := by
  simp [Row.fits]

/-- The masks of the rows with operands, field by field: a fixed field's bits are all set, and an
operand's are clear. -/
theorem Instr.fits_encode (i : Instr) : i.row.fits (Sys2Proof.encode i) = true := by
  rw [Row.fits_iff]
  cases i with
  | encode k a =>
    have hmask : (Instr.encode k a).row.mask = 0x7F#7 ++ 0#1 ++ 0xFF#8 ++ 0#8 ++ 0xFF#8 := rfl
    rw [hmask, Sys2Proof.encode]
    iterate 4 rw [BitVec.and_append]
    rw [BitVec.and_zero, BitVec.and_zero]
    rfl
  | query k sl =>
    have hmask : (Instr.query k sl).row.mask = 0x7F#7 ++ 0#1 ++ 7#3 ++ 0#5 ++ 0xFF#8 ++ 0xFF#8 := rfl
    rw [hmask, Sys2Proof.encode]
    iterate 5 rw [BitVec.and_append]
    rw [BitVec.and_zero, BitVec.and_zero]
    rfl
  | transactSn sl =>
    have hmask : (Instr.transactSn sl).row.mask = 0x7F#7 ++ 1#1 ++ 7#3 ++ 0#5 ++ 0xFF#8 ++ 0xFF#8 := rfl
    rw [hmask, Sys2Proof.encode]
    iterate 5 rw [BitVec.and_append]
    rw [BitVec.and_zero]
    rfl
  | transactMeas sl =>
    have hmask : (Instr.transactMeas sl).row.mask = 0x7F#7 ++ 1#1 ++ 7#3 ++ 0#5 ++ 0xFF#8 ++ 0xFF#8 := rfl
    rw [hmask, Sys2Proof.encode]
    iterate 5 rw [BitVec.and_append]
    rw [BitVec.and_zero]
    rfl
  | resultAck c =>
    have hmask : (Instr.resultAck c).row.mask = 0xFFFF#16 ++ 0#8 ++ 0xFF#8 := rfl
    rw [hmask, Sys2Proof.encode]
    iterate 2 rw [BitVec.and_append]
    rw [BitVec.and_zero]
    rfl
  | delay ms =>
    have hmask : (Instr.delay ms).row.mask = 0#24 ++ 0xFF#8 := rfl
    rw [hmask, Sys2Proof.encode, BitVec.and_append, BitVec.and_zero]
    rfl
  | _ => rfl

theorem decode_encode (i : Instr) : decode (encode i) = .ok i := by
  rw [decode_of_fits i.row_mem i.fits_encode, i.build_encode]

/-- A word decodes to a command exactly when it encodes it (R103). -/
theorem decode_eq_ok_iff (i : Instr) (w : Word) : decode w = .ok i ↔ w = encode i := by
  refine ⟨fun h => ?_, fun h => h ▸ decode_encode i⟩
  obtain ⟨r, hr, hfit, rfl⟩ := exists_build_of_decode h
  exact (encode_build_of_fits r hr w hfit).symm

/-- Settles O4: a command's encoding fits its row, and a word of a row encodes what the row builds from
it. -/
theorem decodeIsInverseOfEncode : Obligations.DecodeIsInverseOfEncode := by
  unfold Obligations.DecodeIsInverseOfEncode
  exact fun i w _ => decode_eq_ok_iff i w

/-- Settles O6: the eight words are the encodings of their commands. -/
theorem sampleWordsDecode : Obligations.SampleWordsDecode := by
  unfold Obligations.SampleWordsDecode
  simp only [decode_eq_ok_iff]
  exact ⟨rfl, rfl, rfl, rfl, rfl, rfl, rfl, rfl⟩

end Sys2Proof
end

section
/-! PROOFS. The issue of a command (R100, R310): the preconditions and the pseudocode of the run commands
under one name each, so that one lemma says what the issue of any run command does; and from it the
rejections, the deferred start, RESULT_ACK, SHUTDOWN and the CMD write as a step. -/

namespace Sys2Proof.Machine

/-! ### The issue of any command -/

/-- The preconditions of a run command or of SCAN_START (R100). -/
def precondition : Instr → State → Option Code
  | .encode k _ => preEncode k
  | .verify => preCheck
  | .decode => preCheck
  | .openTp => preOpen
  | .closeTp => preNone
  | .send => preSend
  | .recv => preReceive
  | .flush => preReceive
  | .query k sl => preQuery k sl
  | .transactSn sl => preTransact .sn sl
  | .transactMeas sl => preTransact .meas sl
  | .scanStart => preScanStart
  | .delay _ => preNone
  | .shutdown => preNone
  | .resultAck _ => preNone

/-- Every run command is issued the same way: its preconditions, then its pseudocode. -/
theorem exec_runCommand {i : Instr} (h : runCommand i = true) (s : State) :
    exec i s = issue i (precondition i) (launch i (startRun i)) s := by
  cases i with
  | scanStart => cases h
  | shutdown => cases h
  | resultAck c => cases h
  | _ => rfl

theorem exec_scanStart (s : State) :
    exec .scanStart s = issue .scanStart preScanStart runScanStart s := rfl

/-- The commands that are not run commands (R100). -/
theorem eq_of_not_runCommand {i : Instr} (h : runCommand i = false) :
    i = .scanStart ∨ i = .shutdown ∨ ∃ c, i = .resultAck c := by
  cases i with
  | scanStart => exact .inl rfl
  | shutdown => exact .inr (.inl rfl)
  | resultAck c => exact .inr (.inr ⟨c, rfl⟩)
  | _ => cases h

theorem exec_shutdown_halted {s : State} (h : s.eng = .halted) : exec .shutdown s = .next s :=
  if_pos h

theorem exec_shutdown_running {s : State} (h : s.eng ≠ .halted) :
    exec .shutdown s = .next s.shutdown :=
  if_neg h

theorem exec_resultAck_halted {s : State} (c : Byte) (h : s.eng = .halted) :
    exec (.resultAck c) s = .next (s.reject .halted (opOf (.resultAck c))) :=
  if_pos h

theorem exec_resultAck_taken {s : State} (c : Byte) (h : s.eng ≠ .halted) (hr : s.recPend = true) :
    exec (.resultAck c) s = .next { s with recPend := false, resume := some (.ack c) } :=
  (if_neg h).trans (if_pos hr)

theorem exec_resultAck_noRecord {s : State} (c : Byte) (h : s.eng ≠ .halted)
    (hr : s.recPend = false) :
    exec (.resultAck c) s = .next (s.reject .noRecordPending (opOf (.resultAck c))) :=
  (if_neg h).trans (if_neg (by simp [hr]))

/-- The issue of a command always answers a next state: a rejection, the acceptance of a run command with
or without its first engine step, the scheduler started, the block shut down, or a record
acknowledged. -/
theorem exec_cases (i : Instr) (s : State) :
    (∃ c, exec i s = .next (s.reject c (opOf i))) ∨
    (runCommand i = true ∧ s.eng = .ready ∧ s.defer = true ∧
      exec i s = .next { s with eng := .cmd, cont := .start i, resume := some .go }) ∨
    (runCommand i = true ∧ s.eng = .ready ∧ s.defer = false ∧
      exec i s = .next (startRun i { s with eng := .cmd })) ∨
    (i = .scanStart ∧ s.eng = .ready ∧ preScanStart s = none ∧
      exec i s = .next (runScanStart s)) ∨
    (i = .shutdown ∧ s.eng = .halted ∧ exec i s = .next s) ∨
    (i = .shutdown ∧ s.eng ≠ .halted ∧ exec i s = .next s.shutdown) ∨
    (∃ c, i = .resultAck c ∧ s.eng ≠ .halted ∧ s.recPend = true ∧
      exec i s = .next { s with recPend := false, resume := some (.ack c) }) := by
  cases hrun : runCommand i with
  | true =>
    rw [exec_runCommand hrun]
    obtain ⟨-, h⟩ | ⟨-, h⟩ | ⟨-, c, -, h⟩ | ⟨he, -, h⟩ := issue_cases s i (precondition i)
      (launch i (startRun i))
    · exact .inl ⟨_, h⟩
    · exact .inl ⟨_, h⟩
    · exact .inl ⟨_, h⟩
    · by_cases hd : s.defer = true
      · exact .inr (.inl ⟨rfl, he, hd, h.trans (congrArg _ (launch_defer s _ _ hd))⟩)
      · have hd : s.defer = false := Bool.eq_false_iff.2 hd
        exact .inr (.inr (.inl ⟨rfl, he, hd, h.trans (congrArg _ (launch_now s _ _ hd))⟩))
  | false =>
    obtain rfl | rfl | ⟨c, rfl⟩ := eq_of_not_runCommand hrun
    · rw [exec_scanStart]
      obtain ⟨-, h⟩ | ⟨-, h⟩ | ⟨-, c, -, h⟩ | ⟨he, hp, h⟩ := issue_cases s .scanStart preScanStart
        runScanStart
      · exact .inl ⟨_, h⟩
      · exact .inl ⟨_, h⟩
      · exact .inl ⟨_, h⟩
      · exact .inr (.inr (.inr (.inl ⟨rfl, he, hp, h⟩)))
    · by_cases he : s.eng = .halted
      · exact .inr (.inr (.inr (.inr (.inl ⟨rfl, he, exec_shutdown_halted he⟩))))
      · exact .inr (.inr (.inr (.inr (.inr (.inl ⟨rfl, he, exec_shutdown_running he⟩)))))
    · by_cases he : s.eng = .halted
      · exact .inl ⟨_, exec_resultAck_halted c he⟩
      · by_cases hr : s.recPend = true
        · exact .inr (.inr (.inr (.inr (.inr (.inr ⟨c, rfl, he, hr,
            exec_resultAck_taken c he hr⟩)))))
        · exact .inl ⟨_, exec_resultAck_noRecord c he (Bool.eq_false_iff.2 hr)⟩

/-! ### A CMD write as a step -/

theorem issueWord_of_decode {w : Word} {i : Instr} (s : State) (h : decode w = .ok i) :
    issueWord w s = exec i s := by
  simp only [issueWord, h]

/-- A step that takes an entry other than a tick, which never waits for the engine (R363). -/
theorem step_of_ne_tick {s : State} {m : Move} {rest : List Move} (h : s.inputs = m :: rest)
    (hm : m.event ≠ .tick) :
    step s = performThenSettle m.event { s with inputs := rest, defer := m.defer } := by
  obtain ⟨h0, -⟩ | ⟨_, _, h0, -, ht, -⟩ | ⟨_, _, h0, -, hs⟩ := step_cases s
  · rw [h0] at h; cases h
  · rw [h0] at h; cases h; exact absurd ht hm
  · rw [h0] at h; cases h; exact hs

/-- Settles O8: the entry is no tick, so the step performs it, and a write to CMD is the issue of its
word. -/
theorem stepRunsDecodedCommand : Obligations.StepRunsDecodedCommand := by
  unfold Obligations.StepRunsDecodedCommand
  intro s w d rest i hin hdec
  rw [step_of_ne_tick hin nofun, performThenSettle, perform, hostWrite_cmd,
    issueWord_of_decode _ hdec]
  rfl

/-- A command word written at the head of the schedule, not deferred, whose issue is accepted or
rejected as `t`. -/
theorem step_issue {s t : State} {i : Instr} {rest : List Move}
    (h : s.inputs = issueMove (encode i) :: rest)
    (hx : exec i { s with inputs := rest, defer := false } = .next t) : step s = settle t := by
  rw [stepRunsDecodedCommand s (encode i) false rest i h (decode_encode i), hx]

/-! ### Rejections and the immediate commands -/

/-- Settles O43: the order of `issue`, which RESULT_ACK shares once halted. -/
theorem haltedThenBusyRejection : Obligations.HaltedThenBusyRejection := by
  unfold Obligations.HaltedThenBusyRejection
  intro i s hshut
  cases hrun : runCommand i with
  | true =>
    rw [exec_runCommand hrun]
    exact ⟨issue_halted s i _ _, fun _ => issue_busy s i _ _⟩
  | false =>
    obtain rfl | rfl | ⟨c, rfl⟩ := eq_of_not_runCommand hrun
    · exact ⟨issue_halted s _ _ _, fun _ => issue_busy s _ _ _⟩
    · exact absurd rfl hshut
    · exact ⟨exec_resultAck_halted c, fun hne => absurd rfl (hne c)⟩

/-- Settles O31: unless halted, REC_PEND alone decides. -/
theorem resultAckCommandAcknowledges : Obligations.ResultAckCommandAcknowledges := by
  unfold Obligations.ResultAckCommandAcknowledges
  refine fun c s he => ⟨exec_resultAck_taken c he, fun hr => ?_⟩
  rw [exec_resultAck_noRecord c he hr, opOf_resultAck]
  rfl

/-- Settles O41: SHUTDOWN is an immediate command, without effect when HALTED. -/
theorem shutdownCommandHalts : Obligations.ShutdownCommandHalts := by
  unfold Obligations.ShutdownCommandHalts
  exact fun s => ⟨exec_shutdown_halted, exec_shutdown_running⟩

/-! ### Reset (R341) -/

/-- Settles O3: reset leaves nothing released, so no engine step follows it, and no request outstanding,
so an answer to an earlier one is discarded. -/
theorem resetFromAnyMode : Obligations.ResetFromAnyMode := by
  unfold Obligations.ResetFromAnyMode
  intro s rest hin
  refine ⟨resetStep { s with inputs := rest, defer := false }, ?step, rfl, rfl,
    fun o _ htag a => ?late⟩
  case step => rw [step_of_ne_tick hin nofun]; rfl
  case late => exact if_pos htag

end Sys2Proof.Machine
end

section
/-! PROOFS. What one engine step can do (R60, R11): between two suspension points it does a number of
things that suspend nothing (`Work`), and then it completes or suspends (`Stop`). The counters of a slot
are touched only first of all, by the answer that released a Query (`Counts`). Every rule about engine
steps is read off these, and the pseudocode is walked through here once. -/

namespace Sys2Proof.Machine

/-! ### The parts of an engine step -/

/-- The mode in which the engine stands at a suspension point (R21, R60). -/
def Cont.mode : Cont → Eng
  | .none => .ready
  | .start _ => .cmd
  | .openAns => .cmd
  | .sendAns => .cmd
  | .recvAns => .cmd
  | .flushAns => .cmd
  | .delaying => .cmd
  | .querySend t => t.eng
  | .querySettle t => t.eng
  | .queryRecv t => t.eng
  | .schedPoll => .sched
  | .schedOpen => .sched
  | .schedBackoff => .sched
  | .schedFlush => .sched
  | .schedPace => .sched
  | .schedAck => .sched
  | .haltIdle => .sched
  | .spin => .sched

/-- What a suspension point waits for (R11). -/
inductive Wait where
  | openAnswer | sendAnswer | receive | sleep | other
deriving DecidableEq

/-- What each suspension point waits for (R11, R60). -/
def Cont.wait : Cont → Wait
  | .openAns => .openAnswer
  | .schedOpen => .openAnswer
  | .sendAns => .sendAnswer
  | .querySend _ => .sendAnswer
  | .recvAns => .receive
  | .flushAns => .receive
  | .queryRecv _ => .receive
  | .schedFlush => .receive
  | .delaying => .sleep
  | .querySettle _ => .sleep
  | .schedPoll => .sleep
  | .schedBackoff => .sleep
  | .schedPace => .sleep
  | .none => .other
  | .start _ => .other
  | .schedAck => .other
  | .haltIdle => .other
  | .spin => .other

/-- One thing that the pseudocode does between two suspension points, where a receive has brought at most
`n` bytes. -/
inductive Work (n : Nat) : State → State → Prop where
  | frame (s : State) (f : List Byte) (hf : f.length ≤ s.params.txCap) : Work n s (s.loadFrame f)
  | overflow (s : State) : Work n s s.dropFrame
  | bytes (s : State) (rx : Option (List Byte)) (hrx : ∀ b, rx = some b → b.length ≤ n) :
      Work n s (s.takeRx rx)
  | check (s : State) (r : List Byte) : Work n s (s.noteChk r)
  | result (s : State) (st : Byte) (p : List Byte) (hp : p.length ≤ n) : Work n s (s.storeResult st p)
  | reading (s : State) (k : Kind) (sl : SlotId) (p : List Byte) : Work n s (s.store k sl p)
  | retry (s : State) (k : Kind) (sl : SlotId) : Work n s (s.keepRetry k sl)
  | event (s : State) (c : Code) (sub : Byte) (sl : SlotId) (k : Kind) : Work n s (s.log c sub sl k)
  | receiveNow (s : State) : Work n s s.receiveNow
  | close (s : State) : Work n s s.closeTp
  | opened (s : State) (left fresh : Word) :
      Work n s { s with tpOpen := true, remaining := left, fresh := fresh }
  | attempt (s : State) (sl : SlotId) (m : Byte) (r : RState) (c : Code) :
      Work n s { s with curSlot := sl, attempts := m, rstate := r, lastFail := c }
  | stage (s : State) (x : SState) (t : Time) (v : Bool) (j : Nat) (hx : x ≠ .halted) :
      Work n s { s with sstate := x, lastScan := t, lastValid := v, recNext := j }
  | scanDone (s : State) : Work n s (s.raiseIrq .scanDone)

/-- Any number of such things. -/
abbrev Works (n : Nat) : State → State → Prop := Relation.ReflTransGen (Work n)

/-- How an engine step of mode `e` ends: a command completes, or the engine suspends. -/
inductive Stop (e : Eng) : State → State → Prop where
  | complete (s : State) (c l : Code) (sl : SlotId) (k : Kind) (he : e = .cmd) :
      Stop e s (s.complete c l sl k)
  | openCall (s : State) (c : Cont) (hc : c.wait = .openAnswer) (he : e = c.mode) :
      Stop e s (s.tpCall s.openReq c)
  | sendCall (s : State) (c : Cont) (f : List Byte) (hc : c.wait = .sendAnswer) (he : e = c.mode) :
      Stop e s (s.tpCall (.sendBytes f) c)
  | receive (s : State) (c : Cont) (d : Time) (hc : c.wait = .receive) (he : e = c.mode) :
      Stop e s { s.tpCall s.recvReq c with rxDeadline := some d }
  | sleep (s : State) (c : Cont) (d : Time) (hc : c.wait = .sleep) (he : e = c.mode) :
      Stop e s { s with cont := c, sleepUntil := some d }
  | record (s : State) (sl : SlotId) (j : Nat) (he : e = .sched) :
      Stop e s ({ s with recSlot := sl, recPend := true, recNext := j
                         cont := .schedAck }.raiseIrq .record)
  | idle (s : State) (he : e = .sched) : Stop e s { s with sstate := .idle, cont := .haltIdle }
  | spin (s : State) (he : e = .sched) (hp : s.params.pollMs = 0) : Stop e s { s with cont := .spin }

/-- An engine step of mode `e` from `s` to `t`, but for what counts. -/
def Runs (n : Nat) (e : Eng) (s t : State) : Prop := ∃ u, Works n s u ∧ Stop e u t

/-- What the release of a Query counts (R169, R211): SENT at its send, RECV at its receive, and NAKC with
it in a Transact. -/
inductive Counts (c : Cont) (s : State) : State → Prop where
  | none : Counts c s s
  | sent (q : Task) (h : c = .querySend q) : Counts c s (s.countSent q.slot)
  | recv (q : Task) (h : c = .queryRecv q) : Counts c s (s.countRecv q.slot)
  | nak (k : Kind) (sl : SlotId) (o : Owner) (h : c = .queryRecv (.transact k sl o)) :
      Counts c s ((s.countRecv sl).countNak sl)

/-! ### Putting parts together -/

section Parts

variable {n : Nat} {e : Eng} {s t u : State}

theorem Runs.of_stop (h : Stop e s t) : Runs n e s t := ⟨s, .refl, h⟩

theorem Runs.after (h : Works n s u) : Runs n e u t → Runs n e s t :=
  fun ⟨v, hv, ht⟩ => ⟨v, h.trans hv, ht⟩

theorem Runs.of_work (h : Work n s u) (ht : Stop e u t) : Runs n e s t := ⟨u, .single h, ht⟩

/-- A Query or Transact that goes on: the engine step ends in its suspension, or the caller goes on from
the state it ended in. -/
def Progress.Follows (n : Nat) (e : Eng) (s : State) : Progress → Prop
  | .suspended t => Runs n e s t
  | .ended t _ => Works n s t

/-- The same of a Transact. -/
def TProgress.Follows (n : Nat) (e : Eng) (s : State) : TProgress → Prop
  | .suspended t => Runs n e s t
  | .ended t _ => Works n s t

end Parts

/-! ### The primitives that suspend or go on -/

section Walk

variable (n : Nat) (s : State)

/-- A sleep suspends, or with no duration goes on as `g`. -/
theorem sleep_runs {e : Eng} {c : Cont} (d : Time) (g : State) (hc : c.wait = .sleep)
    (he : e = c.mode) (hg : d = 0 → Runs n e s g) : Runs n e s ((s.sleep d c).getD g) := by
  obtain ⟨hd, h⟩ | ⟨-, h⟩ := sleep_cases s d c
  · rw [h]; exact hg hd
  · rw [h]; exact .of_stop (.sleep s c _ hc he)

/-- A receive suspends, or with RX_TIMEOUT_MS = 0 goes on as `g`. -/
theorem receive_runs {e : Eng} {c : Cont} (g : State) (hc : c.wait = .receive) (he : e = c.mode)
    (hg : Runs n e s g) : Runs n e s ((s.receive c).getD g) := by
  obtain ⟨-, h⟩ | ⟨-, h⟩ := receive_cases s c
  · rw [h]; exact hg
  · rw [h]; exact .of_stop (.receive s c _ hc he)

/-! ### The codec, the session and DELAY -/

theorem runEncode_runs (k : Kind) (a : Byte) : Runs n .cmd s (runEncode k a s) := by
  unfold runEncode
  split
  · exact .of_work (.overflow s) (.complete _ _ _ _ _ rfl)
  · next f hf => exact .of_work (.frame s f (length_of_encodeFrame hf).2) (.complete _ _ _ _ _ rfl)

theorem runVerify_runs : Runs n .cmd s (runVerify s) := by
  unfold runVerify
  split
  · exact .of_stop (.complete _ _ _ _ _ rfl)
  · exact .of_work (.check s _) (.complete _ _ _ _ _ rfl)

/-- RX_LEN has 9 bits, which bounds what DECODE unpacks. -/
theorem runDecode_runs (hn : 512 ≤ n) : Runs n .cmd s (runDecode s) := by
  refine Runs.after (.single (.check s s.rxBytes)) ?_
  simp only [runDecode]
  split
  · exact .of_stop (.complete _ _ _ _ _ rfl)
  · exact .of_stop (.complete _ _ _ _ _ rfl)
  · next st p c hdec =>
    refine .of_work (.result _ st p ?_) (.complete _ _ _ _ _ rfl)
    obtain ⟨-, -, rfl, -⟩ := decodeFrame_ok hdec
    have hlen : s.rxBytes.length = s.rxLen.toNat := length_bytesAt s _ _
    have hlt := s.rxLen.isLt
    have hun := length_unpack s.rxBytes
    omega

theorem openAnswered_runs (ok : Bool) : Runs n .cmd s (openAnswered ok s) := by
  cases ok with
  | true => exact .of_work (.opened s s.remaining s.fresh) (.complete _ _ _ _ _ rfl)
  | false => exact .of_stop (.complete _ _ _ _ _ rfl)

theorem runClose_runs : Runs n .cmd s (runClose s) := by
  unfold runClose
  split
  · exact .of_work (.close s) (.complete _ _ _ _ _ rfl)
  · exact .of_stop (.complete _ _ _ _ _ rfl)

theorem recvGot_runs (rx : Option (List Byte)) (hrx : ∀ b, rx = some b → b.length ≤ n) :
    Runs n .cmd s (recvGot rx s) :=
  .of_work (.bytes s rx hrx) (.complete _ _ _ _ _ rfl)

theorem runRecv_runs : Runs n .cmd s (runRecv s) :=
  receive_runs n s _ rfl rfl (.after (.single (.receiveNow s)) (recvGot_runs n _ none nofun))

theorem flushGot_runs : Runs n .cmd s (flushGot s) := .of_stop (.complete _ _ _ _ _ rfl)

theorem runFlush_runs : Runs n .cmd s (runFlush s) :=
  receive_runs n s _ rfl rfl (.after (.single (.receiveNow s)) (flushGot_runs n _))

theorem runDelay_runs (ms : BitVec 24) : Runs n .cmd s (runDelay ms s) :=
  sleep_runs n s _ _ rfl rfl fun _ => .of_stop (.complete _ _ _ _ _ rfl)

/-! ### Query -/

theorem queryDone_runs (k : Kind) (sl : SlotId) (r : QResult) :
    Runs n .cmd s (queryDone k sl r s) := by
  cases r <;> exact .of_stop (.complete _ _ _ _ _ rfl)

/-- A Query that starts suspends in its send, or overflows. -/
theorem queryBegin_runs (t : Task) :
    (∃ u, queryBegin t s = .sent u ∧ Runs n t.eng s u) ∨
    (∃ u, queryBegin t s = .overflow u ∧ Works n s u) := by
  have hslot : Work n s { s with curSlot := t.slot } := .attempt s t.slot _ _ _
  obtain ⟨f, hf, h⟩ | ⟨-, h⟩ := queryBegin_cases s t
  · have hload := Work.frame (n := n) { s with curSlot := t.slot } f (length_of_encodeFrame hf).2
    exact .inl ⟨_, h, _, (Relation.ReflTransGen.single hslot).tail hload, .sendCall _ _ _ rfl rfl⟩
  · exact .inr ⟨_, h, (Relation.ReflTransGen.single hslot).tail (.overflow _)⟩

theorem runQuery_runs (k : Kind) (sl : SlotId) : Runs n .cmd s (runQuery k sl s) := by
  unfold runQuery
  obtain ⟨u, h, hu⟩ | ⟨u, h, hu⟩ := queryBegin_runs n s (.query k sl)
  · rw [h]; exact hu
  · rw [h]; exact .after hu (queryDone_runs n u k sl _)

theorem queryReceive_follows (t : Task) : (queryReceive t s).Follows n t.eng s := by
  obtain ⟨-, h⟩ | ⟨-, h⟩ := queryReceive_cases s t
  · rw [h]; exact .of_stop (.receive s _ _ rfl rfl)
  · rw [h]
    exact (Relation.ReflTransGen.single (.receiveNow s)).tail (.bytes s.receiveNow none nofun)

/-- Query after its send counts SENT alone, on a success, and goes on from there. -/
theorem queryAfterSend_follows (t : Task) (ok : Bool) :
    ∃ u, (u = s ∨ u = s.countSent t.slot) ∧ (queryAfterSend t ok s).Follows n t.eng u := by
  obtain ⟨-, h⟩ | ⟨-, -, h⟩ | ⟨-, -, h⟩ := queryAfterSend_cases s t ok
  · exact ⟨s, .inl rfl, by rw [h]; exact .refl⟩
  · exact ⟨_, .inr rfl, by rw [h]; exact .of_stop (.sleep _ _ _ rfl rfl)⟩
  · exact ⟨_, .inr rfl, by rw [h]; exact queryReceive_follows n _ t⟩

/-! ### Transact -/

theorem transactFatal_works (k : Kind) (sl : SlotId) : Works n s (transactFatal k sl s) :=
  ((Relation.ReflTransGen.single (.attempt s s.curSlot s.attempts .failed s.lastFail)).tail
    (.retry _ k sl)).tail (.event _ _ _ _ _)

theorem transactExhaust_works (k : Kind) (sl : SlotId) : Works n s (transactExhaust k sl s) :=
  ((Relation.ReflTransGen.single (.attempt s s.curSlot s.attempts .exhausted s.lastFail)).tail
    (.retry _ k sl)).tail (.event _ _ _ _ _)

theorem transactAttempt_follows (k : Kind) (sl : SlotId) (o : Owner) :
    (transactAttempt k sl o s).Follows n (Task.transact k sl o).eng s := by
  have hcount : Work n s { s with attempts := s.attempts + 1 } := .attempt s _ _ _ _
  unfold transactAttempt
  split
  · obtain ⟨u, h, hu⟩ | ⟨u, h, hu⟩ := queryBegin_runs n { s with attempts := s.attempts + 1 }
      (.transact k sl o)
    · rw [h]; exact Runs.after (.single hcount) hu
    · rw [h]
      exact ((Relation.ReflTransGen.single hcount).trans hu).trans (transactFatal_works n u k sl)
  · exact transactExhaust_works n s k sl

theorem TProgress.Follows.after {n : Nat} {e : Eng} {s u : State} {p : TProgress}
    (h : Works n s u) (hp : p.Follows n e u) : p.Follows n e s := by
  cases p with
  | suspended t => exact Runs.after h hp
  | ended t r => exact h.trans hp

theorem transactBegin_follows (k : Kind) (sl : SlotId) (o : Owner) :
    (transactBegin k sl o s).Follows n (Task.transact k sl o).eng s :=
  .after (.single (.attempt s sl 0 .attempting .none)) (transactAttempt_follows n _ k sl o)

/-- Only a decoded answer is classed as a NAK (R210). -/
theorem ok_of_classify_naked {p : Params} {k : Kind} {r : QResult} (h : classify p k r = .naked) :
    ∃ st payload, r = .ok st payload := by
  cases r with
  | ok st payload => exact ⟨st, payload, rfl⟩
  | err c => cases c <;> cases h

/-- A Transact after an attempt counts NAKC alone, on a NAK, and goes on from there. -/
theorem transactOutcome_follows (k : Kind) (sl : SlotId) (o : Owner) (r : QResult) :
    ∃ u, (u = s ∨ (u = s.countNak sl ∧ ∃ st p, r = .ok st p)) ∧
      (transactOutcome k sl o r s).Follows n (Task.transact k sl o).eng u := by
  obtain ⟨-, h⟩ | ⟨p, -, h⟩ | ⟨hc, h⟩ | ⟨c, -, h⟩ := transactOutcome_cases s k sl o r
  · exact ⟨s, .inl rfl, by rw [h]; exact transactFatal_works n s k sl⟩
  · refine ⟨s, .inl rfl, ?_⟩
    rw [h]
    exact ((Relation.ReflTransGen.single (.reading s k sl p)).tail
      (.attempt _ _ _ .succeeded _)).tail (.retry _ k sl)
  · refine ⟨_, .inr ⟨rfl, ok_of_classify_naked hc⟩, ?_⟩
    rw [h]
    exact .after (.single (.attempt _ _ _ .naked .negativeAcknowledge))
      (transactAttempt_follows n _ k sl o)
  · refine ⟨s, .inl rfl, ?_⟩
    rw [h]
    exact .after ((Relation.ReflTransGen.single (.attempt s _ _ .attempting c)).tail
      (.event _ c 0 sl k)) (transactAttempt_follows n _ k sl o)

theorem transactDone_runs (k : Kind) (sl : SlotId) (r : TResult) :
    Runs n .cmd s (transactDone k sl r s) := by
  cases r <;> exact .of_stop (.complete _ _ _ _ _ rfl)

theorem transactHost_runs (k : Kind) (sl : SlotId) {p : TProgress} (h : p.Follows n .cmd s) :
    Runs n .cmd s (transactHost k sl p) := by
  cases p with
  | suspended t => exact h
  | ended t r => exact .after h (transactDone_runs n t k sl r)

/-! ### The scheduler -/

theorem schedTest_runs : Runs n .sched s (schedTest s) := by
  obtain ⟨-, -, h⟩ | ⟨-, hp, h⟩ | ⟨-, h⟩ := schedTest_cases s
  · rw [h]; exact .of_stop (.sleep s _ _ rfl rfl)
  · rw [h]
    exact .of_stop (.spin s rfl (not_not.1 fun hne => setWidth_ne_zero hne hp))
  · rw [h]; exact .of_stop (.openCall s _ rfl rfl)

theorem schedIdle_runs : Runs n .sched s (schedIdle s) := by
  obtain ⟨-, h⟩ | ⟨-, -, h⟩ := schedIdle_cases s
  · rw [h]
    exact .after (.single (.stage s .waiting _ _ _ nofun)) (schedTest_runs n _)
  · rw [h]; exact .of_stop (.idle s rfl)

theorem schedComplete_runs : Runs n .sched s (schedComplete s) :=
  .after (((Relation.ReflTransGen.single (.close s)).tail (.stage _ .complete _ true _ nofun)).tail
    (.scanDone _)) (schedIdle_runs n _)

theorem schedPresent_runs : Runs n .sched s (schedPresent s) := by
  obtain ⟨j, -, h⟩ | ⟨-, h⟩ := schedPresent_cases s
  · rw [h]; exact .of_stop (.record s _ _ rfl)
  · rw [h]; exact schedComplete_runs n s

theorem schedWriting_runs : Runs n .sched s (schedWriting s) :=
  .after (.single (.stage s .writing _ _ 0 nofun)) (schedPresent_runs n _)

theorem schedAcked_runs (c : Byte) : Runs n .sched s (schedAcked c s) := by
  unfold schedAcked
  split
  · exact schedPresent_runs n s
  · exact .after (.single (.event s _ _ _ _)) (schedPresent_runs n _)

theorem schedSlots_runs (m : Nat) (s : State) : Runs n .sched s (schedSlots m s) := by
  induction m generalizing s with
  | zero => exact schedWriting_runs n s
  | succ m ih =>
    let sl : SlotId := BitVec.ofNat 5 (s.numAddr.toNat - (m + 1))
    have hstage : Works n s { s with sstate := .scanning, curSlot := sl } :=
      (Relation.ReflTransGen.single (.stage s .scanning _ _ _ nofun)).tail (.attempt _ sl _ _ _)
    have hbegin := TProgress.Follows.after hstage
      (transactBegin_follows n { s with sstate := .scanning, curSlot := sl } .sn sl .scan)
    rw [schedSlots]
    split
    · next t h => rw [h] at hbegin; exact hbegin
    · next t r h =>
      rw [h] at hbegin
      exact .after hbegin (sleep_runs n t _ _ rfl rfl fun _ => ih t)

theorem schedNextSlot_runs : Runs n .sched s (schedNextSlot s) := schedSlots_runs n _ s

theorem schedPaceSlot_runs : Runs n .sched s (schedPaceSlot s) :=
  sleep_runs n s _ _ rfl rfl fun _ => schedNextSlot_runs n s

theorem schedTransacted_runs (k : Kind) (sl : SlotId) (r : TResult) :
    Runs n .sched s (schedTransacted k sl r s) := by
  unfold schedTransacted
  split
  · have hbegin := transactBegin_follows n s .meas sl .scan
    split
    · next t h => rw [h] at hbegin; exact hbegin
    · next t r h => rw [h] at hbegin; exact .after hbegin (schedPaceSlot_runs n t)
  · exact schedPaceSlot_runs n s

theorem transactScan_runs (k : Kind) (sl : SlotId) {p : TProgress} (h : p.Follows n .sched s) :
    Runs n .sched s (transactScan k sl p) := by
  cases p with
  | suspended t => exact h
  | ended t r => exact .after h (schedTransacted_runs n t k sl r)

theorem schedScan_runs : Runs n .sched s (schedScan s) := schedSlots_runs n _ s

theorem schedOpened_runs (ok : Bool) : Runs n .sched s (schedOpened ok s) := by
  cases ok with
  | true =>
    exact .after (.single (.opened s (if s.unbounded then s.remaining else s.remaining - 1) 0))
      (receive_runs n _ _ rfl rfl (.after (.single (.receiveNow _)) (schedScan_runs n _)))
  | false =>
    exact .after (.single (.event s .transportOpenFailure 0 0 .sn))
      (sleep_runs n _ _ _ rfl rfl fun _ => schedIdle_runs n _)

/-! ### The whole engine step -/

/-- The first engine step of a run command. -/
theorem startRun_runs (hn : 512 ≤ n) {i : Instr} (hi : runCommand i = true) :
    Runs n .cmd s (startRun i s) := by
  cases i with
  | encode k a => exact runEncode_runs n s k a
  | verify => exact runVerify_runs n s
  | decode => exact runDecode_runs n s hn
  | openTp => exact .of_stop (.openCall s _ rfl rfl)
  | closeTp => exact runClose_runs n s
  | send => exact .of_stop (.sendCall s _ _ rfl rfl)
  | recv => exact runRecv_runs n s
  | flush => exact runFlush_runs n s
  | query k sl => exact runQuery_runs n s k sl
  | transactSn sl => exact transactHost_runs n s .sn sl (transactBegin_follows n s .sn sl .host)
  | transactMeas sl => exact transactHost_runs n s .meas sl (transactBegin_follows n s .meas sl .host)
  | delay ms => exact runDelay_runs n s ms
  | scanStart => cases hi
  | shutdown => cases hi
  | resultAck c => cases hi

/-- The caller of a Query that ended counts NAKC alone, on a NAK in a Transact, and goes on. -/
theorem afterQuery_runs (t : Task) (r : QResult) :
    ∃ u, (u = s ∨ ∃ k sl o st p, t = .transact k sl o ∧ r = .ok st p ∧ u = s.countNak sl) ∧
      Runs n t.eng u (afterQuery t r s) := by
  cases t with
  | query k sl => exact ⟨s, .inl rfl, queryDone_runs n s k sl r⟩
  | transact k sl o =>
    obtain ⟨u, hu, hf⟩ := transactOutcome_follows n s k sl o r
    refine ⟨u, ?_, ?_⟩
    · obtain rfl | ⟨rfl, st, p, rfl⟩ := hu
      · exact .inl rfl
      · exact .inr ⟨k, sl, o, st, p, rfl, rfl, rfl⟩
    · cases o with
      | host => exact transactHost_runs n u k sl hf
      | scan => exact transactScan_runs n u k sl hf

/-- A Query that ended in an error has no NAK to count. -/
theorem afterQuery_err_runs (t : Task) (c : Code) : Runs n t.eng s (afterQuery t (.err c) s) := by
  obtain ⟨u, rfl | ⟨_, _, _, _, _, -, h, -⟩, hr⟩ := afterQuery_runs n s t (.err c)
  · exact hr
  · cases h

theorem afterProgress_runs (t : Task) {p : Progress} (hp : p.Follows n t.eng s)
    (herr : ∀ u r, p = .ended u r → ∃ c, r = .err c) : Runs n t.eng s (afterProgress t p) := by
  cases p with
  | suspended u => exact hp
  | ended u r =>
    obtain ⟨c, rfl⟩ := herr u r rfl
    exact .after hp (afterQuery_err_runs n u t c)

theorem queryReceive_err {t : Task} {u : State} {r : QResult} (h : queryReceive t s = .ended u r) :
    ∃ c, r = .err c := by
  obtain ⟨-, h'⟩ | ⟨-, h'⟩ := queryReceive_cases s t
  · rw [h'] at h; cases h
  · rw [h'] at h; cases h; exact ⟨_, rfl⟩

theorem queryAfterSend_err {t : Task} {ok : Bool} {u : State} {r : QResult}
    (h : queryAfterSend t ok s = .ended u r) : ∃ c, r = .err c := by
  obtain ⟨-, h'⟩ | ⟨-, -, h'⟩ | ⟨-, -, h'⟩ := queryAfterSend_cases s t ok
  · rw [h'] at h; cases h; exact ⟨_, rfl⟩
  · rw [h'] at h; cases h
  · rw [h'] at h; exact queryReceive_err _ h

/-! Counting and storing an answer touch different parts of the state. -/

theorem countRecv_storeAnswer (b : List Byte) (st : Byte) (p : List Byte) (sl : SlotId) :
    (((s.takeRx (some b)).noteChk b).countRecv sl).storeResult st p =
      (((s.countRecv sl).takeRx (some b)).noteChk b).storeResult st p := rfl

theorem countNak_storeAnswer (b : List Byte) (st : Byte) (p : List Byte) (sl : SlotId) :
    (((s.takeRx (some b)).noteChk b).storeResult st p).countNak sl =
      (((s.countNak sl).takeRx (some b)).noteChk b).storeResult st p := rfl

/-- A Query released from its receive: RECV and NAKC may be counted before anything else is done, for
nothing that the answer stores reads them. -/
theorem queryRecv_runs (t : Task) (rx : Option (List Byte)) (hrx : ∀ b, rx = some b → b.length ≤ n) :
    ∃ u, Counts (.queryRecv t) s u ∧
      Runs n t.eng u (afterQuery t (queryGot t rx s).2 (queryGot t rx s).1) := by
  obtain ⟨rfl, h⟩ | ⟨b, rfl, -, h⟩ | ⟨b, c, rfl, -, h⟩ | ⟨b, st, p, c, rfl, hdec, h⟩ :=
    queryGot_cases s t rx
  · rw [h]
    exact ⟨s, .none, .after (.single (.bytes s none hrx)) (afterQuery_err_runs n _ t _)⟩
  · rw [h]
    exact ⟨s, .none, .after ((Relation.ReflTransGen.single (.bytes s _ hrx)).tail (.check _ b))
      (afterQuery_err_runs n _ t _)⟩
  · rw [h]
    exact ⟨s, .none, .after ((Relation.ReflTransGen.single (.bytes s _ hrx)).tail (.check _ b))
      (afterQuery_err_runs n _ t _)⟩
  · have hp : p.length ≤ n := by
      obtain ⟨-, -, rfl, -⟩ := decodeFrame_ok hdec
      have hun := length_unpack b
      have hb := hrx b rfl
      omega
    have hstore (v : State) : Works n v (((v.takeRx (some b)).noteChk b).storeResult st p) :=
      ((Relation.ReflTransGen.single (.bytes v _ hrx)).tail (.check _ b)).tail (.result _ st p hp)
    rw [h, countRecv_storeAnswer]
    obtain ⟨u, hu, hr⟩ := afterQuery_runs n
      ((((s.countRecv t.slot).takeRx (some b)).noteChk b).storeResult st p) t (.ok st p)
    obtain rfl | ⟨k, sl, o, _, _, rfl, -, rfl⟩ := hu
    · exact ⟨_, .recv t rfl, .after (hstore (s.countRecv t.slot)) hr⟩
    · rw [countNak_storeAnswer] at hr
      exact ⟨_, .nak k sl o rfl, .after (hstore ((s.countRecv sl).countNak sl)) hr⟩

/-- The engine step from any suspension point that something has released. -/
theorem runFrom_runs (hn : 512 ≤ n) {c : Cont} {r : Resume} (hfit : c.fits r = true)
    (hstart : ∀ i, c = .start i → runCommand i = true) (hrx : ∀ b, r.rx = some b → b.length ≤ n) :
    ∃ u, Counts c s u ∧ Runs n c.mode u (runFrom c r s) := by
  cases c with
  | start i => exact ⟨s, .none, startRun_runs n s hn (hstart i rfl)⟩
  | openAns => exact ⟨s, .none, openAnswered_runs n s r.isOk⟩
  | sendAns => exact ⟨s, .none, .of_stop (.complete _ _ _ _ _ rfl)⟩
  | recvAns => exact ⟨s, .none, recvGot_runs n s r.rx hrx⟩
  | flushAns => exact ⟨s, .none, flushGot_runs n s⟩
  | delaying => exact ⟨s, .none, .of_stop (.complete _ _ _ _ _ rfl)⟩
  | querySend t =>
    obtain ⟨u, hu, hf⟩ := queryAfterSend_follows n s t r.isOk
    refine ⟨u, ?_, afterProgress_runs n u t hf fun _ _ h => queryAfterSend_err s h⟩
    obtain rfl | rfl := hu
    · exact .none
    · exact .sent t rfl
  | querySettle t =>
    exact ⟨s, .none, afterProgress_runs n s t (queryReceive_follows n s t)
      fun _ _ h => queryReceive_err s h⟩
  | queryRecv t => exact queryRecv_runs n s t r.rx hrx
  | schedPoll => exact ⟨s, .none, schedTest_runs n s⟩
  | schedOpen => exact ⟨s, .none, schedOpened_runs n s r.isOk⟩
  | schedBackoff => exact ⟨s, .none, schedIdle_runs n s⟩
  | schedFlush => exact ⟨s, .none, schedScan_runs n s⟩
  | schedPace => exact ⟨s, .none, schedNextSlot_runs n s⟩
  | schedAck => exact ⟨s, .none, schedAcked_runs n s r.ackCode⟩
  | none => cases r <;> cases hfit
  | haltIdle => cases r <;> cases hfit
  | spin => cases r <;> cases hfit

end Walk

/-- SCAN_START at its acceptance (R230): the budget latched, ERR cleared, DONE raised, SCHED entered. -/
def State.scanAccepted (s : State) : State :=
  { s with
    remaining := s.scanCount, unbounded := s.scanCount == 0, err := ⟨.none, .none, 0, .sn⟩
    eng := .sched }.raiseIrq .done

theorem runScanStart_eq (s : State) : runScanStart s = schedIdle s.scanAccepted := rfl

theorem runScanStart_runs (n : Nat) (s : State) : Runs n .sched s.scanAccepted (runScanStart s) :=
  schedIdle_runs n _

end Sys2Proof.Machine
end

section
/-! PROOFS. The invariant of the block (R60, R22, R45, R272): every step keeps it, and from it no step
faults where POLL_MS > 0. What holds while the engine is inside a step is `State.Running`; the parts of
an engine step keep it, and its end gives the invariant back. -/

namespace Sys2Proof.Machine

/-! ### What the invariant says of the engine, by what it waits for -/

section EngineOk

variable {s : State}

theorem engineOk_openAnswer (h : s.cont.wait = .openAnswer) :
    s.EngineOk ↔ s.eng = s.cont.mode ∧ s.Calling TpReq.isOpen := by
  unfold State.EngineOk
  split <;> simp_all [Cont.wait, Cont.mode]

theorem engineOk_sendAnswer (h : s.cont.wait = .sendAnswer) :
    s.EngineOk ↔ s.eng = s.cont.mode ∧ s.Calling TpReq.isSend := by
  unfold State.EngineOk
  split <;> simp_all [Cont.wait, Cont.mode]

theorem engineOk_receive (h : s.cont.wait = .receive) :
    s.EngineOk ↔ s.eng = s.cont.mode ∧ s.Receiving := by
  unfold State.EngineOk
  split <;> simp_all [Cont.wait, Cont.mode]

theorem engineOk_sleep (h : s.cont.wait = .sleep) :
    s.EngineOk ↔ s.eng = s.cont.mode ∧ s.Sleeping := by
  unfold State.EngineOk
  split <;> simp_all [Cont.wait, Cont.mode]

/-- The suspension points that wait for no deadline and no answer of the transport. -/
theorem engineOk_other (h : s.cont.wait = .other) :
    s.EngineOk ↔ s.NoWait ∧
      ((s.cont = .none ∧ (s.eng = .ready ∨ s.eng = .halted) ∧ s.resume = none) ∨
        (∃ i, s.cont = .start i ∧ runCommand i = true ∧ s.eng = .cmd ∧ s.resume = some .go) ∨
        (s.cont = .schedAck ∧ s.eng = .sched ∧ ((s.recPend = true ∧ s.resume = none) ∨
          (s.recPend = false ∧ ∃ c, s.resume = some (.ack c)))) ∨
        (s.cont = .haltIdle ∧ s.eng = .sched ∧ s.resume = none)) := by
  unfold State.EngineOk
  split <;> simp_all [Cont.wait] <;> tauto

end EngineOk

/-! ### The state inside an engine step -/

/-- What holds of the block while the engine is inside a step of mode `e`: it waits for nothing, and what
the invariant says of the rest. -/
structure State.Running (s : State) (e : Eng) : Prop where
  params : s.params.wf = true
  memory : Memory.wf s.mem = true
  log : s.LogOk
  tx : s.TxOk
  mode : s.eng = e
  busy : e ≠ .halted
  live : s.sstate ≠ .halted
  resumed : s.resume = none
  noWait : s.NoWait
  record : s.recPend = false

section Running

variable {n : Nat} {e : Eng} {s t : State}

theorem txOk_loadFrame {f : List Byte} (hf : f.length ≤ s.params.txCap) : (s.loadFrame f).TxOk := by
  refine ⟨nofun, le_trans ?_ hf⟩
  simp only [State.loadFrame, BitVec.toNat_ofNat]
  exact Nat.mod_le _ _

theorem txOk_dropFrame (s : State) : s.dropFrame.TxOk := ⟨fun _ => rfl, Nat.zero_le _⟩

theorem logOk_log (h : s.LogOk) (c : Code) (sub : Byte) (sl : SlotId) (k : Kind) :
    (s.log c sub sl k).LogOk := by
  unfold State.LogOk at *
  rw [log_evtFifo, log_params]
  split
  · simp; omega
  · exact h

/-- No part of an engine step touches the mode or what is waited for. -/
theorem Work.running (h : Work n s t) (hs : s.Running e) : t.Running e := by
  cases h with
  | frame f hf => exact { hs with memory := wf_loadFrame s f hs.memory, tx := txOk_loadFrame hf }
  | overflow => exact { hs with tx := txOk_dropFrame s }
  | bytes rx _ => cases rx <;> exact { hs with memory := wf_takeRx s _ hs.memory }
  | check r => exact { hs with }
  | result st p _ => exact { hs with memory := wf_storeResult s st p hs.memory }
  | reading k sl p => cases k <;> exact { hs with memory := wf_store s _ sl p hs.memory }
  | retry k sl => cases k <;> exact { hs with }
  | event c sub sl k => exact { hs with log := logOk_log hs.log c sub sl k }
  | receiveNow => exact { hs with }
  | close => exact { hs with }
  | opened left fresh => exact { hs with }
  | attempt sl m r c => exact { hs with }
  | stage x t v j hx => exact { hs with live := hx }
  | scanDone => exact { hs with }

theorem Works.running (h : Works n s t) (hs : s.Running e) : t.Running e := by
  induction h with
  | refl => exact hs
  | tail _ h ih => exact h.running ih

theorem Counts.running {c : Cont} (h : Counts c s t) (hs : s.Running e) : t.Running e := by
  cases h <;> exact { hs with }

/-- The invariant of a state the engine is not inside a step of, but for the engine's own part. -/
theorem State.Running.inv_of (hs : s.Running e) (ht : t.EngineOk) (hr : t.RecordOk)
    (hp : t.params = s.params) (hm : t.mem = s.mem) (hl : t.evtFifo = s.evtFifo)
    (hx : t.txValid = s.txValid ∧ t.txLen = s.txLen) (he : t.eng ≠ .halted)
    (hh : t.sstate ≠ .halted) : t.Inv where
  params := hp ▸ hs.params
  memory := hm ▸ hs.memory
  engine := ht
  record := hr
  log := by unfold State.LogOk; rw [hl, hp]; exact hs.log
  tx := by unfold State.TxOk; rw [hx.1, hx.2, hp]; exact hs.tx
  halt := ⟨⟨fun h => absurd h hh, fun h => absurd h he⟩, fun h => absurd h he⟩

theorem State.Running.eng_ne_halted (hs : s.Running e) : s.eng ≠ .halted :=
  fun h => hs.busy (hs.mode ▸ h)

theorem recordOk_of_not {t : State} (h : t.recPend = false) : t.RecordOk :=
  fun ht => absurd ht (by simp [h])

/-- The end of an engine step gives the invariant back, but for the step that never ends. -/
theorem Stop.inv (h : Stop e s t) (hs : s.Running e) :
    t.params = s.params ∧ (t.Inv ∨ (t.cont = .spin ∧ s.params.pollMs = 0)) := by
  obtain ⟨hsleep, hreq, hdead⟩ := hs.noWait
  have hrec := recordOk_of_not hs.record
  have hne := hs.eng_ne_halted
  cases h with
  | complete c l sl k he =>
    refine ⟨rfl, .inl (hs.inv_of ?_ (recordOk_of_not hs.record) rfl rfl rfl ⟨rfl, rfl⟩ nofun hs.live)⟩
    exact ⟨.inl rfl, hs.resumed, hs.noWait⟩
  | openCall c hc he =>
    refine ⟨rfl, .inl (hs.inv_of ?_ (recordOk_of_not hs.record) rfl rfl rfl ⟨rfl, rfl⟩ hne hs.live)⟩
    exact (engineOk_openAnswer hc).2 ⟨hs.mode.trans he, hsleep, hdead,
      .inl ⟨hs.resumed, _, rfl, rfl, Nat.lt_succ_self _⟩⟩
  | sendCall c f hc he =>
    refine ⟨rfl, .inl (hs.inv_of ?_ (recordOk_of_not hs.record) rfl rfl rfl ⟨rfl, rfl⟩ hne hs.live)⟩
    exact (engineOk_sendAnswer hc).2 ⟨hs.mode.trans he, hsleep, hdead,
      .inl ⟨hs.resumed, _, rfl, rfl, Nat.lt_succ_self _⟩⟩
  | receive c d hc he =>
    refine ⟨rfl, .inl (hs.inv_of ?_ (recordOk_of_not hs.record) rfl rfl rfl ⟨rfl, rfl⟩ hne hs.live)⟩
    exact (engineOk_receive hc).2 ⟨hs.mode.trans he, hsleep,
      .inl ⟨hs.resumed, nofun, _, rfl, ⟨_, _, rfl⟩, Nat.lt_succ_self _⟩⟩
  | sleep c d hc he =>
    refine ⟨rfl, .inl (hs.inv_of ?_ (recordOk_of_not hs.record) rfl rfl rfl ⟨rfl, rfl⟩ hne hs.live)⟩
    exact (engineOk_sleep hc).2 ⟨hs.mode.trans he, hreq, hdead, .inl ⟨nofun, hs.resumed⟩⟩
  | record sl j he =>
    refine ⟨rfl, .inl (hs.inv_of ?_ (fun _ => rfl) rfl rfl rfl ⟨rfl, rfl⟩ hne hs.live)⟩
    exact ⟨hs.mode.trans he, hs.noWait, .inl ⟨rfl, hs.resumed⟩⟩
  | idle he =>
    refine ⟨rfl, .inl (hs.inv_of ?_ (recordOk_of_not hs.record) rfl rfl rfl ⟨rfl, rfl⟩ hne nofun)⟩
    exact ⟨hs.mode.trans he, hs.resumed, hs.noWait⟩
  | spin he hp => exact ⟨rfl, .inr ⟨rfl, hp⟩⟩

theorem Work.params (h : Work n s t) : t.params = s.params := by
  cases h with
  | bytes rx _ => cases rx <;> rfl
  | reading k sl p => cases k <;> rfl
  | retry k sl => cases k <;> rfl
  | _ => rfl

theorem Works.params (h : Works n s t) : t.params = s.params := by
  induction h with
  | refl => rfl
  | tail _ h ih => exact h.params.trans ih

theorem Runs.inv (h : Runs n e s t) (hs : s.Running e) :
    t.params = s.params ∧ (t.Inv ∨ (t.cont = .spin ∧ s.params.pollMs = 0)) := by
  obtain ⟨u, hu, ht⟩ := h
  have hp := hu.params
  rw [← hp]
  exact ht.inv (hu.running hs)

end Running

/-! ### What the invariant says of a state -/

theorem Task.eng_busy (q : Task) : q.eng = .cmd ∨ q.eng = .sched := by
  cases q with
  | query k sl => exact .inl rfl
  | transact k sl o => cases o <;> simp [Task.eng]

/-- The engine stands at a suspension point in CMD or SCHED alone. -/
theorem Cont.mode_busy {c : Cont} (h : c ≠ .none) : c.mode = .cmd ∨ c.mode = .sched := by
  cases c with
  | none => exact absurd rfl h
  | querySend t => exact t.eng_busy
  | querySettle t => exact t.eng_busy
  | queryRecv t => exact t.eng_busy
  | _ => simp [Cont.mode]

theorem Cont.fits_call {c : Cont} (h : c.wait = .openAnswer ∨ c.wait = .sendAnswer) :
    c.fits (.answered .ok) = true ∧ c.fits (.answered .fail) = true := by
  cases c <;> simp_all [Cont.wait, Cont.fits]

theorem Cont.fits_receive {c : Cont} (h : c.wait = .receive) :
    c.fits .deadline = true ∧ c.fits (.answered .timeout) = true ∧
      ∀ b, c.fits (.answered (.bytes b)) = true := by
  cases c <;> simp_all [Cont.wait, Cont.fits]

theorem Cont.fits_sleep {c : Cont} (h : c.wait = .sleep) : c.fits .woke = true := by
  cases c <;> simp_all [Cont.wait, Cont.fits]

section Inv

variable {s : State} (h : s.Inv)
include h

theorem State.Inv.eng_eq_mode (hc : s.cont ≠ .none) : s.eng = s.cont.mode := by
  have he := h.engine
  unfold State.EngineOk at he
  split at he <;> simp_all [Cont.mode]

theorem State.Inv.idle (hc : s.cont = .none) :
    (s.eng = .ready ∨ s.eng = .halted) ∧ s.resume = none ∧ s.NoWait := by
  simpa only [State.EngineOk, hc] using h.engine

theorem State.Inv.recPend_false (hc : s.cont ≠ .schedAck) : s.recPend = false :=
  Bool.eq_false_iff.2 fun hr => hc (h.record hr)

/-- READY and HALTED: nothing has been released or is waited for, and no record is presented. -/
theorem State.Inv.stopped (he : s.eng = .ready ∨ s.eng = .halted) :
    s.cont = .none ∧ s.resume = none ∧ s.NoWait ∧ s.recPend = false := by
  by_cases hc : s.cont = .none
  · exact ⟨hc, (h.idle hc).2.1, (h.idle hc).2.2, h.recPend_false (by simp [hc])⟩
  · have hmode := Cont.mode_busy hc
    rw [← h.eng_eq_mode hc] at hmode
    rcases he with he | he <;> simp [he] at hmode

theorem State.Inv.live (he : s.eng ≠ .halted) : s.sstate ≠ .halted :=
  fun hx => he (h.halt.1.1 hx)

/-- A sleep's deadline is set only while the engine sleeps. -/
theorem State.Inv.sleeping (hd : s.sleepUntil ≠ none) :
    s.cont.wait = .sleep ∧ s.eng = s.cont.mode ∧ s.Sleeping := by
  cases hw : s.cont.wait with
  | sleep => exact ⟨rfl, (engineOk_sleep hw).1 h.engine⟩
  | openAnswer => exact absurd ((engineOk_openAnswer hw).1 h.engine).2.1 hd
  | sendAnswer => exact absurd ((engineOk_sendAnswer hw).1 h.engine).2.1 hd
  | receive => exact absurd ((engineOk_receive hw).1 h.engine).2.1 hd
  | other => exact absurd ((engineOk_other hw).1 h.engine).1.1 hd

/-- RX_DEADLINE is set only while the engine is in a receive. -/
theorem State.Inv.receiving (hd : s.rxDeadline ≠ none) :
    s.cont.wait = .receive ∧ s.eng = s.cont.mode ∧ s.Receiving := by
  cases hw : s.cont.wait with
  | receive => exact ⟨rfl, (engineOk_receive hw).1 h.engine⟩
  | openAnswer => exact absurd ((engineOk_openAnswer hw).1 h.engine).2.2.1 hd
  | sendAnswer => exact absurd ((engineOk_sendAnswer hw).1 h.engine).2.2.1 hd
  | sleep => exact absurd ((engineOk_sleep hw).1 h.engine).2.2.1 hd
  | other => exact absurd ((engineOk_other hw).1 h.engine).1.2.2 hd

/-- A request is outstanding only where the engine waits for its answer. -/
theorem State.Inv.requesting {o : Outstanding} (ho : s.tpReq = some o) :
    s.resume = none ∧ o.tag < s.tpSeq ∧
      ((s.cont.wait = .openAnswer ∧ o.req.isOpen = true) ∨
        (s.cont.wait = .sendAnswer ∧ o.req.isSend = true) ∨
        (s.cont.wait = .receive ∧ ∃ c t, o.req = .recvBytes c t)) := by
  cases hw : s.cont.wait with
  | openAnswer =>
    obtain ⟨-, -, -, ⟨hr, o', ho', hreq, htag⟩ | ⟨hn, -⟩⟩ := (engineOk_openAnswer hw).1 h.engine
    · cases ho.symm.trans ho'; exact ⟨hr, htag, .inl ⟨rfl, hreq⟩⟩
    · cases ho.symm.trans hn
  | sendAnswer =>
    obtain ⟨-, -, -, ⟨hr, o', ho', hreq, htag⟩ | ⟨hn, -⟩⟩ := (engineOk_sendAnswer hw).1 h.engine
    · cases ho.symm.trans ho'; exact ⟨hr, htag, .inr (.inl ⟨rfl, hreq⟩)⟩
    · cases ho.symm.trans hn
  | receive =>
    obtain ⟨-, -, ⟨hr, -, o', ho', hreq, htag⟩ | ⟨hn, -⟩⟩ := (engineOk_receive hw).1 h.engine
    · cases ho.symm.trans ho'; exact ⟨hr, htag, .inr (.inr ⟨rfl, hreq⟩)⟩
    · cases ho.symm.trans hn
  | sleep => cases ho.symm.trans ((engineOk_sleep hw).1 h.engine).2.1
  | other => cases ho.symm.trans ((engineOk_other hw).1 h.engine).1.2.1

end Inv

/-! ### What has been released -/

section Released

variable {s : State} {r : Resume}

theorem State.Calling.released {isReq : TpReq → Bool} (h : s.Calling isReq)
    (hr : s.resume = some r) : s.NoWait ∧ (r = .answered .ok ∨ r = .answered .fail) := by
  obtain ⟨hsleep, hdead, ⟨hn, -⟩ | ⟨hreq, ha⟩⟩ := h
  · cases hr.symm.trans hn
  · exact ⟨⟨hsleep, hreq, hdead⟩, by simpa [hr] using ha⟩

theorem State.Receiving.released (h : s.Receiving) (hr : s.resume = some r) :
    s.NoWait ∧ (r = .deadline ∨ r = .answered .timeout ∨
      ∃ b, r = .answered (.bytes b) ∧ b.length ≤ s.params.rxCap) := by
  obtain ⟨hsleep, ⟨hn, -⟩ | ⟨hreq, hdead, ha⟩⟩ := h
  · cases hr.symm.trans hn
  · exact ⟨⟨hsleep, hreq, hdead⟩, by simpa [hr] using ha⟩

theorem State.Sleeping.released (h : s.Sleeping) (hr : s.resume = some r) :
    s.NoWait ∧ r = .woke := by
  obtain ⟨hreq, hdead, ⟨-, hn⟩ | ⟨hsleep, hw⟩⟩ := h
  · cases hr.symm.trans hn
  · exact ⟨⟨hsleep, hreq, hdead⟩, by simpa [hr] using hw⟩

/-- Whatever has been released fits its suspension point, nothing is waited for any more, and a receive
has brought no more than RX_CAP bytes. -/
theorem State.Inv.released (h : s.Inv) (hr : s.resume = some r) :
    s.cont.fits r = true ∧ s.NoWait ∧ ∀ b, r.rx = some b → b.length ≤ s.params.rxCap := by
  cases hw : s.cont.wait with
  | openAnswer =>
    obtain ⟨hno, hr⟩ := ((engineOk_openAnswer hw).1 h.engine).2.released hr
    have hfit := Cont.fits_call (.inl hw)
    obtain rfl | rfl := hr
    · exact ⟨hfit.1, hno, nofun⟩
    · exact ⟨hfit.2, hno, nofun⟩
  | sendAnswer =>
    obtain ⟨hno, hr⟩ := ((engineOk_sendAnswer hw).1 h.engine).2.released hr
    have hfit := Cont.fits_call (.inr hw)
    obtain rfl | rfl := hr
    · exact ⟨hfit.1, hno, nofun⟩
    · exact ⟨hfit.2, hno, nofun⟩
  | receive =>
    obtain ⟨hno, hr⟩ := ((engineOk_receive hw).1 h.engine).2.released hr
    obtain ⟨hfit, hfit', hfitb⟩ := Cont.fits_receive hw
    obtain rfl | rfl | ⟨b, rfl, hb⟩ := hr
    · exact ⟨hfit, hno, nofun⟩
    · exact ⟨hfit', hno, nofun⟩
    · exact ⟨hfitb b, hno, fun b' hb' => by cases hb'; exact hb⟩
  | sleep =>
    obtain ⟨hno, rfl⟩ := ((engineOk_sleep hw).1 h.engine).2.released hr
    exact ⟨Cont.fits_sleep hw, hno, nofun⟩
  | other =>
    obtain ⟨hno, ⟨-, -, hn⟩ | ⟨i, hc, -, -, hg⟩ | ⟨hc, -, ⟨-, hn⟩ | ⟨-, c, ha⟩⟩ | ⟨-, -, hn⟩⟩ :=
      (engineOk_other hw).1 h.engine
    · cases hr.symm.trans hn
    · cases hr.symm.trans hg; exact ⟨by rw [hc]; rfl, hno, nofun⟩
    · cases hr.symm.trans hn
    · cases hr.symm.trans ha; exact ⟨by rw [hc]; rfl, hno, nofun⟩
    · cases hr.symm.trans hn

/-- A released engine is inside a step as soon as the release is used up. -/
theorem State.Inv.running (h : s.Inv) (hr : s.resume = some r) :
    State.Running { s with resume := none } s.cont.mode := by
  have hc : s.cont ≠ .none := fun hc => by cases hr.symm.trans (h.idle hc).2.1
  have hne : s.cont.mode ≠ .halted := by
    rcases Cont.mode_busy hc with hm | hm <;> simp [hm]
  have hrec : s.recPend = false := by
    by_cases hack : s.cont = .schedAck
    · have he := h.engine
      simp only [State.EngineOk, hack] at he
      obtain ⟨-, -, ⟨-, hn⟩ | ⟨hrec, -⟩⟩ := he
      · cases hr.symm.trans hn
      · exact hrec
    · exact h.recPend_false hack
  exact ⟨h.params, h.memory, h.log, h.tx, h.eng_eq_mode hc, hne,
    h.live (h.eng_eq_mode hc ▸ hne), rfl, (h.released hr).2.1, hrec⟩

theorem State.Inv.runCommand_of_start (h : s.Inv) {i : Instr} (hc : s.cont = .start i) :
    runCommand i = true := by
  have he := h.engine
  simp only [State.EngineOk, hc] at he
  exact he.1

end Released

/-! ### The engine's step keeps the invariant -/

section Engine

variable {s t : State}

/-- A bound on what a step receives that also covers what DECODE unpacks. -/
theorem exists_rx_bound (r : Resume) : ∃ n, 512 ≤ n ∧ ∀ b, r.rx = some b → b.length ≤ n := by
  cases hr : r.rx with
  | none => exact ⟨512, le_rfl, nofun⟩
  | some b =>
    refine ⟨max 512 b.length, le_max_left _ _, fun b' hb => ?_⟩
    cases hb
    exact le_max_right _ _

/-- From the invariant an engine step always has a next state, which meets the invariant unless POLL_MS
= 0 and the step never ends. -/
theorem State.Inv.engineMove (h : s.Inv) :
    ∃ t, engineMove s = .next t ∧ t.params = s.params ∧
      (t.Inv ∨ (t.cont = .spin ∧ s.params.pollMs = 0)) := by
  obtain ⟨-, he⟩ | ⟨r, hr, -, he⟩ | ⟨r, hr, hf, -⟩ := engineMove_cases s
  · exact ⟨s, he, rfl, .inl h⟩
  · obtain ⟨hfit, -, -⟩ := h.released hr
    obtain ⟨n, hn, hrx⟩ := exists_rx_bound r
    obtain ⟨u, hu, hrun⟩ := runFrom_runs n { s with resume := none } hn hfit
      (fun i hc => h.runCommand_of_start hc) hrx
    have hp : u.params = s.params := by cases hu <;> rfl
    have hinv := hrun.inv (hu.running (h.running hr))
    rw [hp] at hinv
    exact ⟨_, he, hinv⟩
  · rw [(h.released hr).1] at hf; cases hf

/-- From the invariant the engine's step after another agent's gives the invariant back, or faults where
POLL_MS = 0. -/
theorem State.Inv.settle (h : s.Inv) :
    (∃ t, settle s = .next t ∧ t.params = s.params ∧ t.Inv) ∨
      (s.params.pollMs = 0 ∧ ∃ f, settle s = .fault f) := by
  have hspin : s.cont ≠ .spin := fun hc => by simpa only [State.EngineOk, hc] using h.engine
  unfold Machine.settle
  rw [if_neg hspin]
  split
  · exact .inl ⟨s, rfl, rfl, h⟩
  · obtain ⟨t, ht, hp, hinv | ⟨hc, hpoll⟩⟩ := h.engineMove
    · have hspin' : t.cont ≠ .spin := fun hc => by simpa only [State.EngineOk, hc] using hinv.engine
      rw [ht]
      exact .inl ⟨t, if_neg hspin', hp, hinv⟩
    · rw [ht]
      exact .inr ⟨hpoll, _, if_pos hc⟩

end Engine

/-! ### The other agents keep the invariant -/

section Agents

variable {s : State} (h : s.Inv)

theorem resetWith_inv {p : Params} (hp : p.wf = true) : (State.resetWith p).Inv where
  params := hp
  memory := rfl
  engine := ⟨.inl rfl, rfl, rfl, rfl, rfl⟩
  record := nofun
  log := Nat.zero_le _
  tx := ⟨fun _ => rfl, Nat.zero_le _⟩
  halt := ⟨⟨nofun, nofun⟩, nofun⟩

/-- Settles O2: the parameters are in R6's ranges, and nothing is begun. -/
theorem resetMeetsInvariant : Obligations.ResetMeetsInvariant := by
  unfold Obligations.ResetMeetsInvariant
  exact resetWith_inv rfl

/-- Storing bus addresses is a change of the slot file alone. -/
theorem putAddrs_eq (s : State) (off : Nat) (bs : List Byte) :
    s.putAddrs off bs = { s with slots := (s.putAddrs off bs).slots } :=
  congrArg (fun t : State => { t with slots := (s.putAddrs off bs).slots }) (putAddrs_frame s bs off).1

theorem hostRead_params (s : State) (a : HostAddr) (w : Width) :
    (hostRead a w s).params = s.params := by
  unfold Machine.hostRead
  obtain ⟨-, e⟩ | ⟨-, ⟨-, e⟩ | ⟨-, e⟩ | ⟨-, e⟩ | e⟩ := afterMemRead_cases s a w <;> rw [e]

theorem memWrite_params (s : State) (a : HostAddr) (w : Width) (v : Word) :
    (s.memWrite a w v).params = s.params := by
  obtain e | ⟨r, -, -, e⟩ | ⟨off, -, -, e⟩ | ⟨b, off, -, -, -, e⟩ | e := memWrite_cases s a w v <;>
    rw [e]
  · cases r <;> rfl
  · rw [putAddrs_eq]
  · rfl

theorem tick_params (s : State) : (tick s).params = s.params := by
  obtain e | ⟨d, -, -, e | ⟨-, e⟩⟩ | ⟨-, e⟩ := tick_cases s <;> rw [e]

include h

theorem State.Inv.schedule (rest : List Move) (d : Bool) :
    State.Inv { s with inputs := rest, defer := d } := { h with }

theorem State.Inv.reject (c : Code) (op : Byte) : (s.reject c op).Inv := { h with }

theorem State.Inv.hostRead (a : HostAddr) (w : Width) : (hostRead a w s).Inv := by
  unfold Machine.hostRead
  obtain ⟨-, e⟩ | ⟨-, ⟨-, e⟩ | ⟨-, e⟩ | ⟨-, e⟩ | e⟩ := afterMemRead_cases s a w <;> rw [e]
  · exact { h with }
  · exact { h with log := le_trans (by simp) h.log }
  · exact { h with }
  · exact { h with }
  · exact { h with }

theorem State.Inv.writeReg (v : Word) (r : Reg) : (s.writeReg v r).Inv := by
  cases r <;> exact { h with }

theorem State.Inv.memWrite (a : HostAddr) (w : Width) (v : Word) : (s.memWrite a w v).Inv := by
  obtain e | ⟨r, -, -, e⟩ | ⟨off, -, -, e⟩ | ⟨b, off, -, -, -, e⟩ | e := memWrite_cases s a w v <;>
    rw [e]
  · exact { h with }
  · exact h.writeReg v r
  · rw [putAddrs_eq]; exact { h with }
  · exact { h with memory := wf_putBytes s _ _ h.memory }
  · exact h

theorem State.Inv.shutdown : s.shutdown.Inv where
  params := h.params
  memory := h.memory
  engine := ⟨.inr rfl, rfl, rfl, rfl, rfl⟩
  record := nofun
  log := h.log
  tx := h.tx
  halt := ⟨⟨fun _ => rfl, fun _ => rfl⟩, fun _ => rfl⟩

/-- READY with the mode of a command or of the scheduler entered is inside an engine step. -/
theorem State.Inv.enter (he : s.eng = .ready) {e : Eng} (hb : e ≠ .halted) :
    State.Running { s with eng := e } e := by
  obtain ⟨-, hr, hno, hrec⟩ := h.stopped (.inl he)
  exact ⟨h.params, h.memory, h.log, h.tx, rfl, hb, h.live (by simp [he]), hr, hno, hrec⟩

/-- The issue of a command gives the invariant back, but for a SCAN_START whose step never ends. -/
theorem State.Inv.exec (i : Instr) :
    ∃ t, exec i s = .next t ∧ t.params = s.params ∧
      (t.Inv ∨ (t.cont = .spin ∧ s.params.pollMs = 0)) := by
  obtain ⟨c, e⟩ | ⟨hrun, he, -, e⟩ | ⟨hrun, he, -, e⟩ | ⟨-, he, -, e⟩ | ⟨-, -, e⟩ | ⟨-, -, e⟩ |
    ⟨c, -, hne, hrec, e⟩ := exec_cases i s
  · exact ⟨_, e, rfl, .inl (h.reject c _)⟩
  · obtain ⟨-, -, hno, hrec⟩ := h.stopped (.inl he)
    refine ⟨_, e, rfl, .inl { h with engine := ?_, record := recordOk_of_not hrec, halt := ?_ }⟩
    · exact ⟨hrun, rfl, rfl, hno⟩
    · exact ⟨⟨fun hx => absurd hx (h.live (by simp [he])), nofun⟩, nofun⟩
  · exact ⟨_, e, (startRun_runs 512 _ le_rfl hrun).inv (h.enter he nofun)⟩
  · have hin := h.enter he (e := .sched) nofun
    have hacc : s.scanAccepted.Running .sched := { hin with }
    exact ⟨_, e, (runScanStart_runs 0 s).inv hacc⟩
  · exact ⟨_, e, rfl, .inl h⟩
  · exact ⟨_, e, rfl, .inl h.shutdown⟩
  · have hack := h.record hrec
    have heng := h.engine
    simp only [State.EngineOk, hack] at heng
    obtain ⟨hsched, hno, -⟩ := heng
    refine ⟨_, e, rfl, .inl { h with engine := ?_, record := nofun }⟩
    simp only [State.EngineOk, hack]
    exact ⟨hsched, hno, .inr ⟨trivial, c, rfl⟩⟩

theorem State.Inv.tick : (tick s).Inv := by
  obtain e | ⟨d, hd, -, ⟨e⟩ | ⟨hx, -⟩⟩ | ⟨hx, e⟩ := tick_cases s
  · rw [e]; exact { h with }
  · obtain ⟨hw, hm, hreq, hdead, -⟩ := h.sleeping (by simp [hd])
    rw [e]
    exact { h with engine := (engineOk_sleep (by exact hw)).2 ⟨hm, hreq, hdead, .inr ⟨rfl, rfl⟩⟩ }
  · obtain ⟨-, -, -, hdead, -⟩ := h.sleeping (by simp [hd])
    cases hx.symm.trans hdead
  · obtain ⟨hw, hm, hsleep, -⟩ := h.receiving (by simp [hx])
    rw [e]
    exact { h with engine := (engineOk_receive (by exact hw)).2 ⟨hm, hsleep, .inr ⟨rfl, rfl, .inl rfl⟩⟩ }

omit h in
/-- R164's contract: an open or a send is answered Ok or Fail. -/
theorem TpReq.allows_call {cap : Nat} {req : TpReq} {a : TpAnswer}
    (hreq : req.isOpen = true ∨ req.isSend = true) (ha : req.allows cap a = true) :
    a = .ok ∨ a = .fail := by
  cases req <;> cases a <;> simp_all [TpReq.isOpen, TpReq.isSend, TpReq.allows]

omit h in
/-- R164's contract: a receive is answered Timeout or at most RX_CAP bytes. -/
theorem TpReq.allows_recv {cap c : Nat} {t : BitVec 16} {a : TpAnswer}
    (ha : (TpReq.recvBytes c t).allows cap a = true) :
    a = .timeout ∨ ∃ b, a = .bytes b ∧ b.length ≤ cap := by
  cases a <;> simp_all [TpReq.allows]

theorem State.Inv.answered {o : Outstanding} {a : TpAnswer} (ho : s.tpReq = some o)
    (ha : o.req.allows s.params.rxCap a = true) :
    State.Inv { s with tpReq := none, rxDeadline := none, resume := some (.answered a) } := by
  obtain ⟨-, -, ⟨hw, hreq⟩ | ⟨hw, hreq⟩ | ⟨hw, c, t, hreq⟩⟩ := h.requesting ho
  · obtain ⟨hm, hsleep, -⟩ := (engineOk_openAnswer hw).1 h.engine
    have hans := TpReq.allows_call (.inl hreq) ha
    exact { h with
      engine := (engineOk_openAnswer (by exact hw)).2 ⟨hm, hsleep, rfl, .inr ⟨rfl, by simpa using hans⟩⟩ }
  · obtain ⟨hm, hsleep, -⟩ := (engineOk_sendAnswer hw).1 h.engine
    have hans := TpReq.allows_call (.inr hreq) ha
    exact { h with
      engine := (engineOk_sendAnswer (by exact hw)).2 ⟨hm, hsleep, rfl, .inr ⟨rfl, by simpa using hans⟩⟩ }
  · obtain ⟨hm, hsleep, -⟩ := (engineOk_receive hw).1 h.engine
    rw [hreq] at ha
    have hans := TpReq.allows_recv ha
    exact { h with
      engine := (engineOk_receive (by exact hw)).2
        ⟨hm, hsleep, .inr ⟨rfl, rfl, .inr (by simpa using hans)⟩⟩ }

/-- Another agent's step gives the invariant back, but for a SCAN_START whose step never ends; or the
transport's contract refuses it. -/
theorem State.Inv.perform (e : Event) :
    (∃ t, perform e s = .next t ∧ t.params = s.params ∧
      (t.Inv ∨ (t.cont = .spin ∧ s.params.pollMs = 0))) ∨
    ∃ r, perform e s = .refused r := by
  cases e with
  | read a w => exact .inl ⟨_, rfl, hostRead_params s a w, .inl (h.hostRead a w)⟩
  | write a w v =>
    simp only [Machine.perform, hostWrite, issueWord]
    split
    · split
      · exact .inl (h.exec _)
      · exact .inl ⟨_, rfl, rfl, .inl (h.reject _ _)⟩
    · exact .inl ⟨_, rfl, memWrite_params s a w v, .inl (h.memWrite a w v)⟩
  | tick => exact .inl ⟨_, rfl, tick_params s, .inl h.tick⟩
  | answer tag a =>
    obtain ⟨o, ho, -, ha, -, e⟩ | e | e := transportAnswer_cases s tag a
    · exact .inl ⟨_, e, rfl, .inl (h.answered ho ha)⟩
    · exact .inl ⟨_, e, rfl, .inl h⟩
    · exact .inr ⟨_, e⟩
  | reset => exact .inl ⟨_, rfl, rfl, .inl { resetWith_inv h.params with }⟩

/-- From the invariant a step gives the invariant back, or faults where POLL_MS = 0, or is refused by the
transport's contract. -/
theorem State.Inv.step :
    (∃ t, step s = .next t ∧ t.params = s.params ∧ t.Inv) ∨
      (s.params.pollMs = 0 ∧ ∃ f, step s = .fault f) ∨ ∃ r, step s = .refused r := by
  obtain ⟨-, e⟩ | ⟨m, rest, -, -, -, e⟩ | ⟨m, rest, -, -, e⟩ := step_cases s
  · rw [e]
    exact (h.schedule s.inputs false).settle.imp_right .inl
  · rw [e]
    exact (h.schedule s.inputs false).settle.imp_right .inl
  · rw [e, performThenSettle]
    obtain ⟨u, hu, hp, hinv | ⟨hc, hpoll⟩⟩ | ⟨r, hr⟩ := (h.schedule rest m.defer).perform m.event
    · rw [hu]
      obtain ⟨t, ht, hpt, htinv⟩ | ⟨hpoll, hf⟩ := hinv.settle
      · exact .inl ⟨t, ht, hpt.trans hp, htinv⟩
      · exact .inr (.inl ⟨hp ▸ hpoll, hf⟩)
    · rw [hu]
      exact .inr (.inl ⟨hpoll, _, if_pos hc⟩)
    · rw [hr]
      exact .inr (.inr ⟨r, rfl⟩)

end Agents

/-- Settles O46: the agents' steps keep the invariant, and an engine step leaves it only for what
`State.Running` says of its inside, from which its end gives it back. -/
theorem stepKeepsInvariant : Obligations.StepKeepsInvariant := by
  unfold Obligations.StepKeepsInvariant
  intro s t hs ht
  obtain ⟨t', ht', hp, hinv⟩ | ⟨-, f, hf⟩ | ⟨r, hr⟩ := hs.step
  · cases ht.symm.trans ht'; exact ⟨hinv, hp⟩
  · cases ht.symm.trans hf
  · cases ht.symm.trans hr

/-- Settles O47: of the three ways a step from the invariant can go, only the one with POLL_MS = 0 is a
fault. -/
theorem noFaultFromInvariant : Obligations.NoFaultFromInvariant := by
  unfold Obligations.NoFaultFromInvariant
  intro s hs hpoll f hf
  obtain ⟨t, ht, -⟩ | ⟨h0, -⟩ | ⟨r, hr⟩ := hs.step
  · cases hf.symm.trans ht
  · exact hpoll h0
  · cases hf.symm.trans hr

end Sys2Proof.Machine
end

section
/-! PROOFS. Rules about every step (R8, R24, R33, R47, R50, R306, R308): what the parts of an engine step leave
unchanged, one lemma per part, and the rules read off them. -/

namespace Sys2Proof.Machine

/-! ### A step as an agent's move and an engine step -/

/-- What a step's engine part starts from: the state itself where no agent moves, else what the next entry
of the schedule leaves. -/
inductive Moved (s : State) : State → Prop where
  | rest (h : s.inputs = [] ∨ (s.tickNext = true ∧ s.resume ≠ none)) :
      Moved s { s with defer := false }
  | entry (m : Move) (l : List Move) (u : State) (h : s.inputs = m :: l)
      (ht : ¬ (s.resume ≠ none ∧ m.event = .tick))
      (hu : perform m.event { s with inputs := l, defer := m.defer } = .next u) : Moved s u

/-- A step is an agent's move, if one is due, and an engine step, unless deferred. -/
theorem step_next {s t : State} (h : step s = .next t) :
    ∃ u, Moved s u ∧ (t = u ∨ (u.defer = false ∧ engineMove u = .next t)) := by
  have hsettle (u : State) (hu : settle u = .next t) :
      t = u ∨ (u.defer = false ∧ engineMove u = .next t) := by
    obtain ⟨-, ⟨-, rfl⟩ | ⟨hd, hm, -⟩⟩ := settle_next u hu
    · exact .inl rfl
    · exact .inr ⟨hd, hm⟩
  obtain ⟨hin, e⟩ | ⟨m, rest, hin, hres, htick, e⟩ | ⟨m, rest, hin, hn, e⟩ := step_cases s
  · exact ⟨_, .rest (.inl hin), hsettle _ (e ▸ h)⟩
  · refine ⟨_, .rest (.inr ⟨?_, ?_⟩), hsettle _ (e ▸ h)⟩
    · simp [State.tickNext, hin, htick]
    · exact fun hr => by simp [hr] at hres
  · obtain ⟨u, hu, hs⟩ := performThenSettle_next _ (e ▸ h)
    exact ⟨u, .entry m rest u hin (fun ⟨hr, ht⟩ => hn ⟨Option.isSome_iff_ne_none.2 hr, ht⟩) hu,
      hsettle u hs⟩

/-- What an engine step does: nothing, or the parts of one. Nothing is asked of the state, so a release
that starts no run command is among the cases. -/
theorem engineMove_runs {s t : State} (h : engineMove s = .next t) :
    t = s ∨ t = { s with resume := none } ∨
      ∃ n u, s.resume ≠ none ∧ Counts s.cont { s with resume := none } u ∧ Runs n s.cont.mode u t := by
  obtain ⟨-, e⟩ | ⟨r, hr, hfit, e⟩ | ⟨r, hr, -, e⟩ := engineMove_cases s
  · cases h.symm.trans e; exact .inl rfl
  · cases h.symm.trans e
    obtain ⟨n, hn, hrx⟩ := exists_rx_bound r
    by_cases hstart : ∀ i, s.cont = .start i → runCommand i = true
    · obtain ⟨u, hu, hrun⟩ := runFrom_runs n { s with resume := none } hn hfit hstart hrx
      exact .inr (.inr ⟨n, u, by simp [hr], hu, hrun⟩)
    · obtain ⟨i, hi⟩ := not_forall.1 hstart
      obtain ⟨hc, hi⟩ := Classical.not_imp.1 hi
      rw [hc]
      obtain rfl | rfl | ⟨c, rfl⟩ := eq_of_not_runCommand (Bool.eq_false_iff.2 hi)
      all_goals exact .inr (.inl rfl)
  · cases h.symm.trans e

/-- From the invariant a receive brings at most 256 bytes (R6). -/
theorem State.Inv.engineMove_runs {s t : State} (h : s.Inv) (hm : Machine.engineMove s = .next t) :
    t = s ∨ (s.resume ≠ none ∧
      ∃ u, Counts s.cont { s with resume := none } u ∧ Runs 512 s.cont.mode u t) := by
  obtain ⟨-, e⟩ | ⟨r, hr, hfit, e⟩ | ⟨r, hr, -, e⟩ := engineMove_cases s
  · cases hm.symm.trans e; exact .inl rfl
  · cases hm.symm.trans e
    refine .inr ⟨by simp [hr], runFrom_runs 512 _ le_rfl hfit (fun i => h.runCommand_of_start)
      fun b hb => ?_⟩
    have hlen := (h.released hr).2.2 b hb
    have hwf := h.params
    simp only [Params.wf, decide_eq_true_eq] at hwf
    omega
  · cases hm.symm.trans e

/-! ### What no engine step changes -/

/-- What neither the pseudocode nor the issue of a command changes: the timebase, the host's configuration
and what a host access leaves behind. -/
structure HostView where
  now : Time
  nowHiSh : Word
  lastHiSh : Word
  irqEn : BitVec 6
  accessErr : Bool
  hostData : Word
  inputs : List Move
  defer : Bool
  config : ConfigView

/-- The host's view of a state. -/
def State.hostView (s : State) : HostView where
  now := s.now
  nowHiSh := s.nowHiSh
  lastHiSh := s.lastHiSh
  irqEn := s.irqEn
  accessErr := s.accessErr
  hostData := s.hostData
  inputs := s.inputs
  defer := s.defer
  config := s.config

/-- A slot written with the bus address it has leaves ADDR_TABLE. -/
theorem addrs_setSlot (s : State) (sl : SlotId) {x : Slot} (hx : x.addr = (s.slot sl).addr) :
    (s.setSlot sl x).slots.toList.map Slot.addr = s.slots.toList.map Slot.addr := by
  simp only [State.setSlot, Vector.toList_set, List.map_set, hx]
  have hlen : sl.toNat < (s.slots.toList.map Slot.addr).length := by simpa using sl.isLt
  have hget : (s.slot sl).addr = (s.slots.toList.map Slot.addr)[sl.toNat] := by simp [State.slot]
  rw [hget]
  exact List.set_getElem_self hlen

theorem hostView_setSlot (s : State) (sl : SlotId) {x : Slot} (hx : x.addr = (s.slot sl).addr) :
    (s.setSlot sl x).hostView = s.hostView := by
  simp only [State.hostView, State.config, addrs_setSlot s sl hx]
  rfl

section Frame

variable {n : Nat} {e : Eng} {c : Cont} {s t : State}

theorem hostView_store (s : State) (k : Kind) (sl : SlotId) (p : List Byte) :
    (s.store k sl p).hostView = s.hostView := by
  cases k with
  | sn => exact hostView_setSlot (s.putBytes _ _) sl rfl
  | meas => exact hostView_setSlot (s.putBytes _ _) sl rfl

theorem hostView_keepRetry (s : State) (k : Kind) (sl : SlotId) :
    (s.keepRetry k sl).hostView = s.hostView := by
  cases k <;> exact hostView_setSlot s sl rfl

theorem Work.hostView (h : Work n s t) : t.hostView = s.hostView := by
  cases h with
  | bytes rx _ => cases rx <;> rfl
  | reading k sl p => exact hostView_store s k sl p
  | retry k sl => exact hostView_keepRetry s k sl
  | _ => rfl

theorem Counts.hostView (h : Counts c s t) : t.hostView = s.hostView := by
  cases h with
  | none => rfl
  | sent q _ => exact hostView_setSlot s _ rfl
  | recv q _ => exact hostView_setSlot s _ rfl
  | nak k sl o _ =>
    have hnak : ((s.countRecv sl).countNak sl).hostView = (s.countRecv sl).hostView :=
      hostView_setSlot _ sl rfl
    exact hnak.trans (hostView_setSlot s sl rfl)

theorem Stop.hostView (h : Stop e s t) : t.hostView = s.hostView := by
  cases h <;> rfl

/-- Of an engine step only its parts can change what a rule speaks of. -/
theorem Runs.keeps {α : Type} (f : State → α) (hw : ∀ s t, Work n s t → f t = f s)
    (hs : ∀ s t, Stop e s t → f t = f s) (h : Runs n e s t) : f t = f s := by
  obtain ⟨u, hu, ht⟩ := h
  refine (hs _ _ ht).trans ?_
  clear ht
  induction hu with
  | refl => rfl
  | tail _ h ih => exact (hw _ _ h).trans ih

theorem Runs.hostView (h : Runs n e s t) : t.hostView = s.hostView :=
  h.keeps _ (fun _ _ => Work.hostView) fun _ _ => Stop.hostView

theorem engineMove_hostView (h : engineMove s = .next t) : t.hostView = s.hostView := by
  obtain rfl | rfl | ⟨n, u, -, hu, hr⟩ := engineMove_runs h
  · rfl
  · rfl
  · exact hr.hostView.trans hu.hostView

theorem exec_hostView {i : Instr} (h : exec i s = .next t) : t.hostView = s.hostView := by
  obtain ⟨c, e⟩ | ⟨-, -, -, e⟩ | ⟨hrun, -, -, e⟩ | ⟨-, -, -, e⟩ | ⟨-, -, e⟩ | ⟨-, -, e⟩ |
    ⟨c, -, -, -, e⟩ := exec_cases i s <;> cases h.symm.trans e
  · rfl
  · rfl
  · exact (startRun_runs 512 _ le_rfl hrun).hostView
  · exact (runScanStart_runs 0 s).hostView
  · rfl
  · rfl
  · rfl

/-! ### Pending interrupts -/

/-- Every pending interrupt of `s` is pending in `t`. -/
def State.Pends (s t : State) : Prop := s.irqPend &&& t.irqPend = s.irqPend

theorem and_or_self {w : Nat} (x y : BitVec w) : x &&& (x ||| y) = x := by
  apply BitVec.eq_of_getLsbD_eq
  intro i _
  simp only [BitVec.getLsbD_and, BitVec.getLsbD_or]
  cases x.getLsbD i <;> rfl

theorem State.Pends.of_eq (h : t.irqPend = s.irqPend) : s.Pends t := by
  rw [State.Pends, h, BitVec.and_self]

theorem State.Pends.of_or {m : BitVec 6} (h : t.irqPend = s.irqPend ||| m) : s.Pends t := by
  rw [State.Pends, h, and_or_self]

theorem State.Pends.trans {u : State} (h : s.Pends u) (hu : u.Pends t) : s.Pends t := by
  unfold State.Pends at *
  rw [← h, BitVec.and_assoc, hu]

theorem Work.pends (h : Work n s t) : s.Pends t := by
  cases h with
  | bytes rx _ => cases rx <;> exact .of_eq rfl
  | reading k sl p => cases k <;> exact .of_eq rfl
  | retry k sl => cases k <;> exact .of_eq rfl
  | event c sub sl k => exact .of_or rfl
  | scanDone => exact .of_or rfl
  | _ => exact .of_eq rfl

theorem Works.pends (h : Works n s t) : s.Pends t := by
  induction h with
  | refl => exact .of_eq rfl
  | tail _ h ih => exact ih.trans h.pends

theorem Stop.pends (h : Stop e s t) : s.Pends t := by
  cases h with
  | complete c l sl k => exact .of_or (BitVec.or_assoc _ _ _)
  | record sl j => exact .of_or rfl
  | _ => exact .of_eq rfl

theorem Runs.pends (h : Runs n e s t) : s.Pends t := by
  obtain ⟨u, hu, ht⟩ := h
  exact hu.pends.trans ht.pends

theorem Counts.pends (h : Counts c s t) : s.Pends t := by
  cases h <;> exact .of_eq rfl

theorem engineMove_pends (h : engineMove s = .next t) : s.Pends t := by
  obtain rfl | rfl | ⟨n, u, -, hu, hr⟩ := engineMove_runs h
  · exact .of_eq rfl
  · exact .of_eq rfl
  · exact (hu.pends : s.Pends u).trans hr.pends

theorem exec_pends {i : Instr} (h : exec i s = .next t) : s.Pends t := by
  obtain ⟨c, e⟩ | ⟨-, -, -, e⟩ | ⟨hrun, -, -, e⟩ | ⟨-, -, -, e⟩ | ⟨-, -, e⟩ | ⟨-, -, e⟩ |
    ⟨c, -, -, -, e⟩ := exec_cases i s <;> cases h.symm.trans e
  · exact .of_or rfl
  · exact .of_eq rfl
  · have henter : s.Pends { s with eng := .cmd } := .of_eq rfl
    exact henter.trans (startRun_runs 512 _ le_rfl hrun).pends
  · have hacc : s.Pends s.scanAccepted := .of_or rfl
    exact hacc.trans (runScanStart_runs 0 s).pends
  · exact .of_eq rfl
  · exact .of_eq rfl
  · exact .of_eq rfl

end Frame

end Sys2Proof.Machine
end

section
/-! PROOFS. The rules about every step that are read off its parts: NOW (R50, R363), pending interrupts
(R308), the shadows of NOW and LAST_SCAN (R33, R34, R355). -/

namespace Sys2Proof.Machine

section Agents

variable {s t : State}

/-! ### What the other agents' moves leave of the timebase -/

theorem hostRead_now (a : HostAddr) (w : Width) (s : State) : (hostRead a w s).now = s.now := by
  unfold hostRead
  obtain ⟨-, e⟩ | ⟨-, ⟨-, e⟩ | ⟨-, e⟩ | ⟨-, e⟩ | e⟩ := afterMemRead_cases s a w <;> rw [e]

theorem memWrite_now (s : State) (a : HostAddr) (w : Width) (v : Word) :
    (s.memWrite a w v).now = s.now := by
  obtain e | ⟨r, -, -, e⟩ | ⟨off, -, -, e⟩ | ⟨b, off, -, -, -, e⟩ | e := memWrite_cases s a w v <;>
    rw [e]
  · cases r <;> rfl
  · rw [putAddrs_eq]
  · rfl

theorem tick_now (s : State) : (tick s).now = s.now + 1 := by
  obtain e | ⟨d, -, -, e | ⟨-, e⟩⟩ | ⟨-, e⟩ := tick_cases s <;> rw [e]

/-- A host write is a plain one, or the issue of a command, or the rejection of a word that is none. -/
theorem hostWrite_cases {a : HostAddr} {w : Width} {v : Word} (h : hostWrite a w v s = .next t) :
    t = s.memWrite a w v ∨ (a = 0x0004 ∧ w = .word ∧
      ((∃ i, v = encode i ∧ exec i s = .next t) ∨ ∃ c op, t = s.reject c op)) := by
  unfold hostWrite at h
  split at h
  case isFalse => cases h; exact .inl rfl
  case isTrue hc =>
    obtain ⟨ha, hw⟩ : a = 0x0004 ∧ w = .word := by simpa [issuesCommand] using hc
    refine .inr ⟨ha, hw, ?_⟩
    unfold issueWord at h
    split at h
    · next i hi => exact .inl ⟨i, (decode_eq_ok_iff i v).1 hi, h⟩
    · cases h; exact .inr ⟨_, _, rfl⟩

theorem hostWrite_now {a : HostAddr} {w : Width} {v : Word} (h : hostWrite a w v s = .next t) :
    t.now = s.now := by
  obtain rfl | ⟨-, -, ⟨i, -, hi⟩ | ⟨c, op, rfl⟩⟩ := hostWrite_cases h
  · exact memWrite_now s a w v
  · exact congrArg HostView.now (exec_hostView hi)
  · rfl

theorem transportAnswer_now {tag : Nat} {a : TpAnswer} (h : transportAnswer tag a s = .next t) :
    t.now = s.now := by
  obtain ⟨o, -, -, -, -, e⟩ | e | e := transportAnswer_cases s tag a <;> cases h.symm.trans e <;> rfl

/-! ### NOW (R50, R363) -/

/-- What a move does to NOW: a tick adds one, reset clears it, and every other move leaves it. -/
theorem perform_now {e : Event} (h : perform e s = .next t) :
    (e = .tick → t.now = s.now + 1) ∧ (e = .reset → t.now = 0) ∧
      (e ≠ .tick → e ≠ .reset → t.now = s.now) := by
  cases e with
  | read a w => cases h; exact ⟨nofun, nofun, fun _ _ => hostRead_now a w s⟩
  | write a w v => exact ⟨nofun, nofun, fun _ _ => hostWrite_now h⟩
  | tick => cases h; exact ⟨fun _ => tick_now s, nofun, fun h => absurd rfl h⟩
  | answer tag a => exact ⟨nofun, nofun, fun _ _ => transportAnswer_now h⟩
  | reset => cases h; exact ⟨nofun, fun _ => rfl, fun _ h => absurd rfl h⟩

theorem tickNext_iff {m : Move} {l : List Move} (h : s.inputs = m :: l) :
    s.tickNext = true ↔ m.event = .tick := by
  simp [State.tickNext, h]

theorem resetNext_iff {m : Move} {l : List Move} (h : s.inputs = m :: l) :
    s.resetNext = true ↔ m.event = .reset := by
  simp [State.resetNext, h]

/-- Settles O48: the engine's part of a step leaves NOW, and the agent's part is `perform_now`; a tick that
is next while the engine is released is not taken. -/
theorem timeAdvancesOnlyByTicks : Obligations.TimeAdvancesOnlyByTicks := by
  unfold Obligations.TimeAdvancesOnlyByTicks
  intro s t h
  obtain ⟨u, hmove, heng⟩ := step_next h
  have hnow : t.now = u.now := by
    obtain rfl | ⟨-, hm⟩ := heng
    · rfl
    · exact congrArg HostView.now (engineMove_hostView hm)
  rw [hnow]
  cases hmove with
  | rest hrest =>
    refine ⟨fun ⟨htick, hres⟩ => ?_, fun hreset => ?_, fun _ _ => rfl⟩
    · obtain hin | ⟨-, hres'⟩ := hrest
      · simp [State.tickNext, hin] at htick
      · exact absurd hres hres'
    · obtain hin | ⟨htick, -⟩ := hrest
      · simp [State.resetNext, hin] at hreset
      · unfold State.tickNext at htick
        unfold State.resetNext at hreset
        split at htick <;> simp_all
  | entry m l u hin htaken hu =>
    obtain ⟨htick, hreset, hother⟩ := perform_now hu
    refine ⟨fun ⟨ht, _⟩ => htick ((tickNext_iff hin).1 ht),
      fun hr => hreset ((resetNext_iff hin).1 hr), fun hnt hr => hother ?_ ?_⟩
    · intro hm
      obtain hnt | hres := hnt
      · simp [(tickNext_iff hin).2 hm] at hnt
      · exact htaken ⟨hres, hm⟩
    · intro hm
      simp [(resetNext_iff hin).2 hm] at hr

/-! ### Pending interrupts (R308) -/

theorem offset_of_locate {p : Params} {a : Nat} {r : Reg} (h : locate p a = .reg r) :
    a = r.offset := by
  unfold locate at h
  split at h
  · split at h
    · next q hq =>
      have hoff : (q.offset == a) = true := List.find?_some (p := fun q : Reg => q.offset == a) hq
      cases h
      exact (beq_iff_eq.1 hoff).symm
    · cases h
  · repeat' split at h
    all_goals cases h

/-- A register takes words alone (R73). -/
theorem memWrite_reg_not_word {a : HostAddr} {w : Width} {r : Reg} (v : Word)
    (h : locate s.params a.toNat = .reg r) (hw : w ≠ .word) :
    s.memWrite a w v = { s with accessErr := true } := by
  have hleg : legal s.params a w = false := by simp [legal, h, Loc.takes, hw]
  simp [State.memWrite, hleg]

theorem memWrite_pends {a : HostAddr} {w : Width} {v : Word} (h : ¬ (a = 0x0014 ∧ w = .word)) :
    s.Pends (s.memWrite a w v) := by
  obtain e | ⟨r, hloc, -, e⟩ | ⟨off, -, -, e⟩ | ⟨b, off, -, -, -, e⟩ | e := memWrite_cases s a w v
  · rw [e]; exact .of_eq rfl
  · by_cases hr : r = .irqPend
    · subst hr
      have ha : a = 0x0014 := BitVec.eq_of_toNat_eq (offset_of_locate hloc)
      rw [memWrite_reg_not_word v hloc fun hw => h ⟨ha, hw⟩]
      exact .of_eq rfl
    · rw [e]
      cases r with
      | irqPend => exact absurd rfl hr
      | _ => exact .of_eq rfl
  · rw [e, putAddrs_eq]; exact .of_eq rfl
  · rw [e]; exact .of_eq rfl
  · rw [e]; exact .of_eq rfl

theorem hostRead_pends (a : HostAddr) (w : Width) : s.Pends (hostRead a w s) := by
  unfold hostRead
  obtain ⟨-, e⟩ | ⟨-, ⟨-, e⟩ | ⟨-, e⟩ | ⟨-, e⟩ | e⟩ := afterMemRead_cases s a w <;> rw [e] <;>
    exact .of_eq rfl

theorem tick_pends : s.Pends (tick s) := by
  obtain e | ⟨d, -, -, e | ⟨-, e⟩⟩ | ⟨-, e⟩ := tick_cases s <;> rw [e] <;> exact .of_eq rfl

/-- Only reset and a write to IRQ_PEND clear a pending interrupt. -/
theorem perform_pends {e : Event} (h : perform e s = .next t) (hr : e ≠ .reset)
    (hw : ∀ v, e ≠ .write 0x0014 .word v) : s.Pends t := by
  cases e with
  | read a w => cases h; exact hostRead_pends a w
  | write a w v =>
    obtain rfl | ⟨-, -, ⟨i, -, hi⟩ | ⟨c, op, rfl⟩⟩ := hostWrite_cases h
    · exact memWrite_pends fun ⟨ha, hword⟩ => hw v (by rw [ha, hword])
    · exact exec_pends hi
    · exact .of_or rfl
  | tick => cases h; exact tick_pends
  | answer tag a =>
    obtain ⟨o, -, -, -, -, e⟩ | e | e := transportAnswer_cases s tag a <;> cases h.symm.trans e <;>
      exact .of_eq rfl
  | reset => exact absurd rfl hr

/-- Settles O53: neither part of a step clears a pending interrupt. -/
theorem interruptBitsAreSticky : Obligations.InterruptBitsAreSticky := by
  unfold Obligations.InterruptBitsAreSticky
  intro s t hreset hwrite h
  obtain ⟨u, hmove, heng⟩ := step_next h
  have hagent : s.Pends u := by
    cases hmove with
    | rest _ => exact .of_eq rfl
    | entry m l u hin _ hu =>
      have hs : s.Pends { s with inputs := l, defer := m.defer } := .of_eq rfl
      refine hs.trans (perform_pends hu (fun hm => ?_) fun v hm => ?_)
      · simp [(resetNext_iff hin).2 hm] at hreset
      · exact hwrite v m.defer l (by rw [hin, ← hm])
  obtain rfl | ⟨-, hm⟩ := heng
  · exact hagent
  · exact hagent.trans (engineMove_pends hm)

/-! ### The shadows of NOW and LAST_SCAN (R33, R34, R355) -/

theorem tick_hostView (s : State) : (tick s).hostView = { s.hostView with now := s.now + 1 } := by
  obtain e | ⟨d, -, -, e | ⟨-, e⟩⟩ | ⟨-, e⟩ := tick_cases s <;> rw [e] <;> rfl

/-- A step before which the schedule holds `n + 1` ticks and then `rest` leaves at least `n` of them, and
the two shadows. -/
theorem step_ticks {n : Nat} {rest : List Move} (hin : s.inputs = List.replicate (n + 1) tickMove ++ rest)
    (h : step s = .next t) :
    (∃ rest', t.inputs = List.replicate n tickMove ++ rest') ∧
      t.nowHiSh = s.nowHiSh ∧ t.lastHiSh = s.lastHiSh := by
  obtain ⟨u, hmove, heng⟩ := step_next h
  have hview : t.hostView = u.hostView := by
    obtain rfl | ⟨-, hm⟩ := heng
    · rfl
    · exact engineMove_hostView hm
  have hti : t.inputs = u.inputs := congrArg HostView.inputs hview
  have htn : t.nowHiSh = u.nowHiSh := congrArg HostView.nowHiSh hview
  have htl : t.lastHiSh = u.lastHiSh := congrArg HostView.lastHiSh hview
  rw [hti, htn, htl]
  cases hmove with
  | rest _ =>
    refine ⟨⟨tickMove :: rest, ?_⟩, rfl, rfl⟩
    rw [hin, List.replicate_succ', List.append_assoc]
    rfl
  | entry m l u hm _ hu =>
    rw [hin, List.replicate_succ, List.cons_append, List.cons.injEq] at hm
    obtain ⟨rfl, rfl⟩ := hm
    cases hu
    have hv := tick_hostView { s with inputs := List.replicate n tickMove ++ rest, defer := false }
    exact ⟨⟨rest, congrArg HostView.inputs hv⟩, congrArg HostView.nowHiSh hv,
      congrArg HostView.lastHiSh hv⟩

theorem stepN_ticks {n : Nat} {rest : List Move} (hin : s.inputs = List.replicate n tickMove ++ rest)
    (h : stepN n s = .next t) : t.nowHiSh = s.nowHiSh ∧ t.lastHiSh = s.lastHiSh := by
  induction n generalizing s rest with
  | zero => cases h; exact ⟨rfl, rfl⟩
  | succ n ih =>
    unfold stepN at h
    split at h
    · next u hu =>
      obtain ⟨⟨rest', hin'⟩, hn, hl⟩ := step_ticks hin hu
      obtain ⟨hn', hl'⟩ := ih hin' h
      exact ⟨hn'.trans hn, hl'.trans hl⟩
    · cases h
    · cases h

theorem hi32_append_lo32 (x : Time) : hi32 x ++ lo32 x = x := by
  apply BitVec.eq_of_getLsbD_eq
  intro i hi
  simp only [hi32, lo32, BitVec.getLsbD_append, BitVec.getLsbD_extractLsb']
  by_cases hlow : i < 32
  · simp [hlow]
  · simp [hlow, (by omega : 32 + (i - 32) = i), (by omega : i - 32 < 32)]

theorem hostRead_nowLo (s : State) :
    hostRead 0x0020 .word s = { s with nowHiSh := hi32 s.now, hostData := lo32 s.now } :=
  hostRead_reg s (r := .nowLo) rfl

theorem hostRead_lastScanLo (s : State) :
    hostRead 0x0028 .word s = { s with lastHiSh := hi32 s.lastScan, hostData := lo32 s.lastScan } :=
  hostRead_reg s (r := .lastScanLo) rfl

/-- Settles O57: the LO read copies the high word to the shadow that the HI read returns, and no step on a
tick writes the shadows. -/
theorem timeReadsWithoutTearing : Obligations.TimeReadsWithoutTearing := by
  unfold Obligations.TimeReadsWithoutTearing
  intro s t n rest hin
  rw [hostRead_nowLo, hostRead_lastScanLo, memRead_reg t (a := 0x0024) (r := .nowHi) rfl,
    memRead_reg t (a := 0x002C) (r := .lastScanHi) rfl]
  refine ⟨fun h => ⟨rfl, ?_⟩, fun h => ⟨rfl, ?_⟩⟩
  · obtain ⟨hshadow, -⟩ := stepN_ticks
      (s := { s with nowHiSh := hi32 s.now, hostData := lo32 s.now }) hin h
    exact (congrArg (· ++ lo32 s.now) hshadow).trans (hi32_append_lo32 s.now)
  · obtain ⟨-, hshadow⟩ := stepN_ticks
      (s := { s with lastHiSh := hi32 s.lastScan, hostData := lo32 s.lastScan }) hin h
    exact (congrArg (· ++ lo32 s.lastScan) hshadow).trans (hi32_append_lo32 s.lastScan)

end Agents

end Sys2Proof.Machine
end

section
/-! PROOFS. The rules about a block that runs or has halted (R22, R24, R47, R231, R242, R272, R351): what
the agents can change while ENG is not READY, and what of it remains where nothing is released. -/

namespace Sys2Proof.Machine

/-! ### The lock (R24) -/

theorem locked_of_not_ready {s : State} (h : s.eng ≠ .ready) : s.locked = true := by
  unfold State.locked State.busy State.schedActive State.isHalted
  cases he : s.eng <;> simp_all

/-- A register that is not RWL takes a write only to the interrupt registers and ACCESS_ERR (R31, R44). -/
theorem writeReg_not_rwl {s : State} {r : Reg} (v : Word) (h : r.rwl = false) :
    ∃ p n x, s.writeReg v r = { s with irqPend := p, irqEn := n, accessErr := x } := by
  cases r with
  | maxRetries => cases h
  | minScanDelay => cases h
  | scanCount => cases h
  | numAddr => cases h
  | cmdLen0 => cases h
  | cmdLen1 => cases h
  | rxLen => cases h
  | _ => exact ⟨_, _, _, rfl⟩

/-- A host write while ENG is not READY touches no more than the interrupt registers and ACCESS_ERR. -/
theorem memWrite_locked {s : State} (h : s.eng ≠ .ready) (a : HostAddr) (w : Width) (v : Word) :
    ∃ p n x, s.memWrite a w v = { s with irqPend := p, irqEn := n, accessErr := x } := by
  have hlock := locked_of_not_ready h
  obtain e | ⟨r, -, hr, e⟩ | ⟨off, -, hl, -⟩ | ⟨b, off, -, -, hl, -⟩ | e := memWrite_cases s a w v
  · exact ⟨_, _, _, e⟩
  · rw [hlock, Bool.and_true] at hr
    rw [e]
    exact writeReg_not_rwl v hr
  · simp [hlock] at hl
  · simp [hlock] at hl
  · exact ⟨_, _, _, e⟩

/-- The issue of a command while ENG is not READY rejects it, but for SHUTDOWN and RESULT_ACK. -/
theorem exec_not_ready {s t : State} {i : Instr} (h : s.eng ≠ .ready) (hx : exec i s = .next t) :
    (∃ c op, t = s.reject c op) ∨ (i = .shutdown ∧ s.eng = .halted ∧ t = s) ∨
      (i = .shutdown ∧ s.eng ≠ .halted ∧ t = s.shutdown) ∨
      (s.recPend = true ∧ ∃ c, t = { s with recPend := false, resume := some (.ack c) }) := by
  obtain ⟨c, e⟩ | ⟨-, he, -⟩ | ⟨-, he, -⟩ | ⟨-, he, -⟩ | ⟨hi, he, e⟩ | ⟨hi, he, e⟩ | ⟨c, -, -, hr, e⟩ :=
    exec_cases i s
  · cases hx.symm.trans e; exact .inl ⟨_, _, rfl⟩
  · exact absurd he h
  · exact absurd he h
  · exact absurd he h
  · cases hx.symm.trans e; exact .inr (.inl ⟨hi, he, rfl⟩)
  · cases hx.symm.trans e; exact .inr (.inr (.inl ⟨hi, he, rfl⟩))
  · cases hx.symm.trans e; exact .inr (.inr (.inr ⟨hr, c, rfl⟩))

/-! ### Steps that leave the block as it is -/

/-- `t` differs from `s` in no more than the timebase, what host accesses leave behind, REJ and the
schedule. -/
def State.Quiet (s t : State) : Prop :=
  t = { s with
    now := t.now, nowHiSh := t.nowHiSh, lastHiSh := t.lastHiSh, rej := t.rej, irqPend := t.irqPend
    irqEn := t.irqEn, accessErr := t.accessErr, evtFifo := t.evtFifo, hostData := t.hostData
    inputs := t.inputs, defer := t.defer }

theorem hostRead_quiet (s : State) (a : HostAddr) (w : Width) : s.Quiet (hostRead a w s) := by
  unfold hostRead
  obtain ⟨-, e⟩ | ⟨-, ⟨-, e⟩ | ⟨-, e⟩ | ⟨-, e⟩ | e⟩ := afterMemRead_cases s a w <;> rw [e] <;> rfl

theorem tick_quiet {s : State} (hs : s.sleepUntil = none) (hr : s.rxDeadline = none) :
    s.Quiet (tick s) := by
  obtain e | ⟨d, hd, -⟩ | ⟨hx, -⟩ := tick_cases s
  · rw [e]; rfl
  · cases hs.symm.trans hd
  · cases hr.symm.trans hx

theorem encode_shutdown : encode .shutdown = 0x0000000C := rfl

/-- With no deadline to reach, no record to acknowledge and no request to answer, no agent but reset and
SHUTDOWN reaches the block while ENG is not READY. -/
theorem perform_quiet {s t : State} {e : Event} (h : perform e s = .next t) (he : s.eng ≠ .ready)
    (hrec : s.recPend = false) (hreset : e ≠ .reset)
    (htick : e = .tick → s.sleepUntil = none ∧ s.rxDeadline = none)
    (hans : ∀ o a, s.tpReq = some o → e ≠ .answer o.tag a)
    (hshut : e = .write 0x0004 .word 0x0000000C → s.eng = .halted) : s.Quiet t := by
  cases e with
  | read a w => cases h; exact hostRead_quiet s a w
  | write a w v =>
    obtain rfl | ⟨rfl, rfl, ⟨i, rfl, hi⟩ | ⟨c, op, rfl⟩⟩ := hostWrite_cases h
    · obtain ⟨p, n, x, e⟩ := memWrite_locked he a w v
      rw [e]; rfl
    · obtain ⟨c, op, rfl⟩ | ⟨-, -, rfl⟩ | ⟨rfl, hne, -⟩ | ⟨hr, -⟩ := exec_not_ready he hi
      · rfl
      · rfl
      · exact absurd (hshut (by rw [encode_shutdown])) hne
      · simp [hrec] at hr
    · rfl
  | tick => cases h; exact tick_quiet (htick rfl).1 (htick rfl).2
  | answer tag a =>
    obtain ⟨o, ho, rfl, -⟩ | e | e := transportAnswer_cases s tag a
    · exact absurd rfl (hans o a ho)
    · cases h.symm.trans e; rfl
    · cases h.symm.trans e
  | reset => exact absurd rfl hreset

/-- The same of a whole step where nothing is released, so that no engine step follows. -/
theorem step_quiet {s t : State} (h : step s = .next t) (he : s.eng ≠ .ready)
    (hres : s.resume = none) (hrec : s.recPend = false) (hreset : s.resetNext = false)
    (htick : s.tickNext = true → s.sleepUntil = none ∧ s.rxDeadline = none)
    (hans : ∀ o a d rest, s.tpReq = some o → s.inputs ≠ ⟨.answer o.tag a, d⟩ :: rest)
    (hshut : ∀ d rest, s.inputs = ⟨.write 0x0004 .word 0x0000000C, d⟩ :: rest → s.eng = .halted) :
    s.Quiet t := by
  obtain ⟨u, hmove, heng⟩ := step_next h
  have hu : s.Quiet u := by
    cases hmove with
    | rest _ => rfl
    | entry m l u hin _ hu =>
      obtain ⟨e, d⟩ := m
      refine (perform_quiet hu he hrec (fun hm => ?_) (fun hm => ?_) (fun o a ho hm => ?_)
        fun hm => ?_ : State.Quiet { s with inputs := l, defer := d } u)
      · simp [(resetNext_iff hin).2 hm] at hreset
      · exact htick ((tickNext_iff hin).2 hm)
      · exact hans o a d l ho (by rw [hin, ← hm])
      · exact hshut d l (by rw [hin, ← hm])
  obtain rfl | ⟨-, hm⟩ := heng
  · exact hu
  · have hures : u.resume = none := (congrArg State.resume hu).trans hres
    obtain ⟨-, e⟩ | ⟨r, hr, -⟩ | ⟨r, hr, -⟩ := engineMove_cases u
    · cases hm.symm.trans e; exact hu
    · cases hures.symm.trans hr
    · cases hures.symm.trans hr

/-- Settles O34: idle for good, the scheduler waits for nothing that a step could end. -/
theorem exhaustedIdleIsQuiescent : Obligations.ExhaustedIdleIsQuiescent := by
  unfold Obligations.ExhaustedIdleIsQuiescent
  intro s t he hc hres hno hrec hreset hshut h
  obtain ⟨hsleep, hreq, hdead⟩ := hno
  have hq : s.Quiet t := step_quiet h (by simp [he]) hres hrec hreset (fun _ => ⟨hsleep, hdead⟩)
    (fun o _ _ _ ho => by cases hreq.symm.trans ho) fun d rest hin => absurd hin (hshut d rest)
  rw [hq]
  exact ⟨he, hc, hres, ⟨hsleep, hreq, hdead⟩, hrec, rfl, rfl, rfl, rfl, rfl⟩

/-- Settles O42: halted, the block waits for nothing, and SHUTDOWN has no effect. -/
theorem haltedUntilReset : Obligations.HaltedUntilReset := by
  unfold Obligations.HaltedUntilReset
  intro s t hinv he hreset h
  obtain ⟨hc, hres, ⟨hsleep, hreq, hdead⟩, hrec⟩ := hinv.stopped (.inr he)
  have hq : s.Quiet t := step_quiet h (by simp [he]) hres hrec hreset (fun _ => ⟨hsleep, hdead⟩)
    (fun o _ _ _ ho => by cases hreq.symm.trans ho) fun _ _ _ => he
  rw [hq]
  exact ⟨he, hinv.halt.2 he, hc, rfl, rfl, rfl, rfl, rfl, rfl, rfl, rfl⟩

/-- Settles O51: while a request is outstanding nothing is released and no record is presented. -/
theorem oneRequestAtATime : Obligations.OneRequestAtATime := by
  unfold Obligations.OneRequestAtATime
  intro s t o hinv ho htick hreset hans hshut h
  obtain ⟨hres, -, hwait⟩ := hinv.requesting ho
  have hc : s.cont ≠ .none ∧ s.cont ≠ .schedAck := by
    constructor <;> intro hc <;> simp [hc, Cont.wait] at hwait
  have he : s.eng ≠ .ready := by
    have hmode := Cont.mode_busy hc.1
    rw [← hinv.eng_eq_mode hc.1] at hmode
    rcases hmode with hm | hm <;> simp [hm]
  have hq : s.Quiet t := step_quiet h he hres (hinv.recPend_false hc.2) hreset
    (fun ht => by simp [htick] at ht) (fun o' a d rest ho' => by cases ho.symm.trans ho'; exact hans a d rest)
    fun d rest hin => absurd hin (hshut d rest)
  rw [hq]
  exact ⟨ho, rfl, rfl⟩

end Sys2Proof.Machine
end

section
/-! PROOFS. The rules about a step from the invariant that takes an engine step: the configuration (R24,
R351), ERR, REJ and ENG of the scheduler (R231, R244), and the counters of a slot (R47, R319). -/

namespace Sys2Proof.Machine

/-! ### The agent's part of a step from the invariant -/

theorem Moved.inv {s u : State} (h : s.Inv) (hm : Moved s u) : u.Inv ∨ u.cont = .spin := by
  cases hm with
  | rest _ => exact .inl (h.schedule s.inputs false)
  | entry m l u _ _ hu =>
    obtain ⟨t, ht, -, hinv | ⟨hc, -⟩⟩ | ⟨r, hr⟩ := (h.schedule l m.defer).perform m.event
    · cases hu.symm.trans ht; exact .inl hinv
    · cases hu.symm.trans ht; exact .inr hc
    · cases hu.symm.trans hr

/-- Nothing fits the engine step that never ends, so no engine step follows it. -/
theorem engineMove_spin {s t : State} (hc : s.cont = .spin) (h : engineMove s = .next t) : t = s := by
  obtain ⟨-, e⟩ | ⟨r, -, hfit, -⟩ | ⟨r, -, -, e⟩ := engineMove_cases s
  · cases h.symm.trans e; rfl
  · rw [hc] at hfit; cases r <;> cases hfit
  · cases h.symm.trans e

/-- The engine's part of a step from the invariant. -/
theorem step_next_inv {s t : State} (h : s.Inv) (hs : step s = .next t) :
    ∃ u, Moved s u ∧ (t = u ∨ (u.Inv ∧ u.defer = false ∧ u.resume ≠ none ∧
      ∃ v, Counts u.cont { u with resume := none } v ∧ Runs 512 u.cont.mode v t)) := by
  obtain ⟨u, hmove, rfl | ⟨hd, hm⟩⟩ := step_next hs
  · exact ⟨_, hmove, .inl rfl⟩
  · obtain hinv | hc := hmove.inv h
    · obtain rfl | ⟨hr, hv⟩ := hinv.engineMove_runs hm
      · exact ⟨_, hmove, .inl rfl⟩
      · exact ⟨u, hmove, .inr ⟨hinv, hd, hr, hv⟩⟩
    · exact ⟨u, hmove, .inl (engineMove_spin hc hm)⟩

/-! ### ERR, REJ and ENG of the scheduler (R231, R244) -/

section Frame

variable {n : Nat} {e : Eng} {c : Cont} {s t : State}

/-- What a completion or a rejection writes, and the mode. -/
def State.verdict (s : State) : ErrReg × RejReg × Eng := (s.err, s.rej, s.eng)

theorem Work.verdict (h : Work n s t) : t.verdict = s.verdict := by
  cases h with
  | bytes rx _ => cases rx <;> rfl
  | reading k sl p => cases k <;> rfl
  | retry k sl => cases k <;> rfl
  | _ => rfl

/-- Only a command completes. -/
theorem Stop.verdict (he : e ≠ .cmd) (h : Stop e s t) : t.verdict = s.verdict := by
  cases h with
  | complete c l sl k h => exact absurd h he
  | _ => rfl

theorem Runs.verdict (he : e ≠ .cmd) (h : Runs n e s t) : t.verdict = s.verdict :=
  h.keeps _ (fun _ _ => Work.verdict) fun _ _ => Stop.verdict he

theorem Counts.verdict (h : Counts c s t) : t.verdict = s.verdict := by
  cases h <;> rfl

/-- Settles O50: a step of mode SCHED does not complete, and completing alone writes ERR and ENG. -/
theorem schedulerContainsFailures : Obligations.SchedulerContainsFailures := by
  unfold Obligations.SchedulerContainsFailures
  intro s t hinv he h
  obtain rfl | ⟨hr, u, hu, hrun⟩ := hinv.engineMove_runs h
  · exact ⟨rfl, rfl, he⟩
  · have hc : s.cont ≠ .none := fun hc => hr (hinv.idle hc).2.1
    have hv : t.verdict = s.verdict :=
      (hrun.verdict (by simp [← hinv.eng_eq_mode hc, he])).trans hu.verdict
    simp only [State.verdict, Prod.mk.injEq] at hv
    obtain ⟨herr, hrej, heng⟩ := hv
    exact ⟨herr, hrej, heng.trans he⟩

/-! ### The configuration (R24, R351) -/

theorem byteAt_setBytes_out {a base : Nat} {bs : List Byte} (hm : t.mem = Memory.setBytes s.mem base bs)
    (he : t.epoch = s.epoch) (ha : a < base ∨ base + bs.length ≤ a) : t.byteAt a = s.byteAt a :=
  (storesAt_of base bs hm he).2 a ha

/-- No part of an engine step that receives at most 512 bytes writes CMDBUF0 or CMDBUF1. -/
theorem Work.cmdBuf (h : Work 512 s t) (hp : s.params.wf = true) {a : Nat} (hlo : 0x3000 ≤ a)
    (hhi : a < 0x5000) : t.byteAt a = s.byteAt a := by
  cases h with
  | frame f hf =>
    simp only [Params.wf, decide_eq_true_eq] at hp
    refine byteAt_setBytes_out (base := txBase) (bs := f) rfl rfl ?_
    simp only [txBase]; omega
  | bytes rx hrx =>
    cases rx with
    | none => rfl
    | some b =>
      have hb := hrx b rfl
      refine byteAt_setBytes_out (base := rxBase) (bs := b) rfl rfl ?_
      simp only [rxBase]; omega
  | result st p hlen =>
    refine byteAt_setBytes_out (base := resultBase) (bs := p) rfl rfl ?_
    simp only [resultBase]; omega
  | reading k sl p =>
    cases k with
    | sn =>
      refine byteAt_setBytes_out (base := serialBase sl) (bs := p) rfl rfl ?_
      simp only [serialBase]; omega
    | meas =>
      refine byteAt_setBytes_out (base := valueBase sl) (bs := p) rfl rfl ?_
      simp only [valueBase]; omega
  | retry k sl => cases k <;> rfl
  | _ => rfl

theorem Works.cmdBuf (h : Works 512 s t) (hp : s.params.wf = true) {a : Nat} (hlo : 0x3000 ≤ a)
    (hhi : a < 0x5000) : t.byteAt a = s.byteAt a := by
  induction h with
  | refl => rfl
  | tail hu h ih => exact (h.cmdBuf (by rw [Works.params hu]; exact hp) hlo hhi).trans ih

theorem Stop.byteAt (h : Stop e s t) (a : Nat) : t.byteAt a = s.byteAt a := by
  cases h <;> rfl

theorem Runs.cmdBuf (h : Runs 512 e s t) (hp : s.params.wf = true) {a : Nat} (hlo : 0x3000 ≤ a)
    (hhi : a < 0x5000) : t.byteAt a = s.byteAt a := by
  obtain ⟨u, hu, ht⟩ := h
  exact (ht.byteAt a).trans (hu.cmdBuf hp hlo hhi)

theorem Counts.byteAt (h : Counts c s t) (a : Nat) : t.byteAt a = s.byteAt a := by
  cases h <;> rfl

/-- While ENG is not READY no agent but reset writes a location that a running command reads. -/
theorem perform_locked {ev : Event} (h : perform ev s = .next t) (he : s.eng ≠ .ready)
    (hr : ev ≠ .reset) : t.config = s.config ∧ t.mem = s.mem ∧ t.epoch = s.epoch := by
  cases ev with
  | read a w =>
    cases h
    have hq := hostRead_quiet s a w
    rw [hq]; exact ⟨rfl, rfl, rfl⟩
  | write a w v =>
    obtain rfl | ⟨-, -, ⟨i, -, hi⟩ | ⟨c, op, rfl⟩⟩ := hostWrite_cases h
    · obtain ⟨p, n, x, e⟩ := memWrite_locked he a w v
      rw [e]; exact ⟨rfl, rfl, rfl⟩
    · obtain ⟨c, op, rfl⟩ | ⟨-, -, rfl⟩ | ⟨-, -, rfl⟩ | ⟨-, c, rfl⟩ := exec_not_ready he hi <;>
        exact ⟨rfl, rfl, rfl⟩
    · exact ⟨rfl, rfl, rfl⟩
  | tick =>
    cases h
    obtain e | ⟨d, -, -, e | ⟨-, e⟩⟩ | ⟨-, e⟩ := tick_cases s <;> rw [e] <;> exact ⟨rfl, rfl, rfl⟩
  | answer tag a =>
    obtain ⟨o, -, -, -, -, e⟩ | e | e := transportAnswer_cases s tag a <;> cases h.symm.trans e <;>
      exact ⟨rfl, rfl, rfl⟩
  | reset => exact absurd rfl hr

/-- Settles O49: the agents are locked out, and an engine step writes its buffers below and above the
payload buffers. -/
theorem configurationLockedWhileRunning : Obligations.ConfigurationLockedWhileRunning := by
  unfold Obligations.ConfigurationLockedWhileRunning
  intro s t hinv he hreset h
  obtain ⟨u, hmove, heng⟩ := step_next_inv hinv h
  have hu : u.config = s.config ∧ u.mem = s.mem ∧ u.epoch = s.epoch := by
    cases hmove with
    | rest _ => exact ⟨rfl, rfl, rfl⟩
    | entry m l u hin _ hu =>
      refine (perform_locked hu he fun hm => ?_ : _ ∧ _ ∧ _)
      simp [(resetNext_iff hin).2 hm] at hreset
  obtain ⟨hconf, hmem, hepoch⟩ := hu
  obtain rfl | ⟨huinv, -, -, v, hv, hrun⟩ := heng
  · exact ⟨hconf, fun a _ _ => byteAt_congr s _ hmem hepoch a⟩
  · have hview := hrun.hostView.trans hv.hostView
    have hvp : v.params.wf = true := by
      have hvu : v.params = u.params := by cases hv <;> rfl
      rw [hvu]; exact huinv.params
    exact ⟨(congrArg HostView.config hview).trans hconf, fun a hlo hhi =>
      ((hrun.cmdBuf hvp hlo hhi).trans (hv.byteAt a)).trans (byteAt_congr s u hmem hepoch a)⟩

/-! ### The counters of a slot (R47, R319) -/

/-- SENT, RECV and NAKC of a slot. -/
def Slot.counters (x : Slot) : Word × Word × Word := (x.sent, x.recv, x.nakc)

/-- The counters of a slot of the block. -/
def State.counters (s : State) (sl : SlotId) : Word × Word × Word := (s.slot sl).counters

theorem counters_setSlot (s : State) (sl j : SlotId) {x : Slot}
    (hx : x.counters = (s.slot sl).counters) :
    (s.setSlot sl x).counters j = s.counters j := by
  unfold State.counters
  by_cases hj : sl = j
  · subst hj; rw [slot_setSlot_same, hx]
  · rw [slot_setSlot_ne s sl j x hj]

theorem Work.counters (j : SlotId) (h : Work n s t) : t.counters j = s.counters j := by
  cases h with
  | bytes rx _ => cases rx <;> rfl
  | reading k sl p => cases k <;> exact counters_setSlot (s.putBytes _ _) sl j rfl
  | retry k sl => cases k <;> exact counters_setSlot s sl j rfl
  | _ => rfl

theorem Stop.counters (j : SlotId) (h : Stop e s t) : t.counters j = s.counters j := by
  cases h <;> rfl

theorem Runs.counters (j : SlotId) (h : Runs n e s t) : t.counters j = s.counters j :=
  h.keeps _ (fun _ _ => Work.counters j) fun _ _ => Stop.counters j

theorem exec_counters {i : Instr} (h : exec i s = .next t) (j : SlotId) :
    t.counters j = s.counters j := by
  obtain ⟨c, e⟩ | ⟨-, -, -, e⟩ | ⟨hrun, -, -, e⟩ | ⟨-, -, -, e⟩ | ⟨-, -, e⟩ | ⟨-, -, e⟩ |
    ⟨c, -, -, -, e⟩ := exec_cases i s <;> cases h.symm.trans e
  · rfl
  · rfl
  · exact (startRun_runs 512 _ le_rfl hrun).counters j
  · exact (runScanStart_runs 0 s).counters j
  · rfl
  · rfl
  · rfl

theorem memWrite_counters (s : State) (a : HostAddr) (w : Width) (v : Word) (j : SlotId) :
    (s.memWrite a w v).counters j = s.counters j := by
  obtain e | ⟨r, -, -, e⟩ | ⟨off, -, -, e⟩ | ⟨b, off, -, -, -, e⟩ | e := memWrite_cases s a w v <;>
    rw [e]
  · rfl
  · cases r <;> rfl
  · have hslot := congrArg Slot.counters ((putAddrs_frame s (storedBytes v w (s.params.maxSlots - off))
      off).2 j)
    exact hslot
  · rfl

/-- No agent but reset writes a counter. -/
theorem perform_counters {ev : Event} (h : perform ev s = .next t) (hr : ev ≠ .reset) (j : SlotId) :
    t.counters j = s.counters j := by
  cases ev with
  | read a w =>
    cases h
    have hq := hostRead_quiet s a w
    rw [hq]; rfl
  | write a w v =>
    obtain rfl | ⟨-, -, ⟨i, -, hi⟩ | ⟨c, op, rfl⟩⟩ := hostWrite_cases h
    · exact memWrite_counters s a w v j
    · exact exec_counters hi j
    · rfl
  | tick =>
    cases h
    obtain e | ⟨d, -, -, e | ⟨-, e⟩⟩ | ⟨-, e⟩ := tick_cases s <;> rw [e] <;> rfl
  | answer tag a =>
    obtain ⟨o, -, -, -, -, e⟩ | e | e := transportAnswer_cases s tag a <;> cases h.symm.trans e <;> rfl
  | reset => exact absurd rfl hr

theorem Work.resume (h : Work n s t) : t.resume = s.resume := by
  cases h with
  | bytes rx _ => cases rx <;> rfl
  | reading k sl p => cases k <;> rfl
  | retry k sl => cases k <;> rfl
  | _ => rfl

theorem Stop.resume (h : Stop e s t) : t.resume = s.resume := by
  cases h <;> rfl

theorem Runs.resume (h : Runs n e s t) : t.resume = s.resume :=
  h.keeps _ (fun _ _ => Work.resume) fun _ _ => Stop.resume

/-- The issue of a command that releases the engine, not deferred, leaves it where it stood. -/
theorem exec_released {i : Instr} (hinv : s.Inv) (h : exec i s = .next t) (hd : t.defer = false)
    (hr : t.resume ≠ none) : t.cont = s.cont := by
  obtain ⟨c, e⟩ | ⟨-, -, hdefer, e⟩ | ⟨hrun, he, -, e⟩ | ⟨-, he, -, e⟩ | ⟨-, -, e⟩ | ⟨-, -, e⟩ |
    ⟨c, -, -, -, e⟩ := exec_cases i s <;> cases h.symm.trans e
  · rfl
  · cases hdefer.symm.trans hd
  · have hres := (hinv.stopped (.inl he)).2.1
    have hrun' := (startRun_runs 512 { s with eng := .cmd } le_rfl hrun).resume
    exact absurd (hrun'.trans hres) hr
  · have hres := (hinv.stopped (.inl he)).2.1
    exact absurd ((runScanStart_runs 0 s).resume.trans hres) hr
  · rfl
  · exact absurd rfl hr
  · rfl

/-- So does every other agent but reset. -/
theorem perform_released {ev : Event} (hinv : s.Inv) (h : perform ev s = .next t)
    (hreset : ev ≠ .reset) (hd : t.defer = false) (hr : t.resume ≠ none) : t.cont = s.cont := by
  cases ev with
  | read a w =>
    cases h
    have hq := hostRead_quiet s a w
    rw [hq]
  | write a w v =>
    obtain rfl | ⟨-, -, ⟨i, -, hi⟩ | ⟨c, op, rfl⟩⟩ := hostWrite_cases h
    · obtain e | ⟨r, -, -, e⟩ | ⟨off, -, -, e⟩ | ⟨b, off, -, -, -, e⟩ | e := memWrite_cases s a w v <;>
        rw [e]
      · cases r <;> rfl
      · rw [putAddrs_eq]
      · rfl
    · exact exec_released hinv hi hd hr
    · rfl
  | tick =>
    cases h
    obtain e | ⟨d, -, -, e | ⟨-, e⟩⟩ | ⟨-, e⟩ := tick_cases s <;> rw [e]
  | answer tag a =>
    obtain ⟨o, -, -, -, -, e⟩ | e | e := transportAnswer_cases s tag a <;> cases h.symm.trans e <;> rfl
  | reset => exact absurd rfl hreset

/-- What the release of a Query counts, slot by slot. -/
theorem Counts.slot (h : Counts c s t) (j : SlotId) :
    ((t.slot j).sent ≠ (s.slot j).sent →
      (t.slot j).sent = (s.slot j).sent + 1 ∧ ∃ q, c = .querySend q ∧ q.slot = j) ∧
    ((t.slot j).recv ≠ (s.slot j).recv →
      (t.slot j).recv = (s.slot j).recv + 1 ∧ ∃ q, c = .queryRecv q ∧ q.slot = j) ∧
    ((t.slot j).nakc ≠ (s.slot j).nakc →
      (t.slot j).nakc = (s.slot j).nakc + 1 ∧ ∃ k o, c = .queryRecv (.transact k j o)) := by
  cases h with
  | none => exact ⟨fun h => absurd rfl h, fun h => absurd rfl h, fun h => absurd rfl h⟩
  | sent q hc =>
    by_cases hj : q.slot = j
    · subst hj
      have hslot : (s.countSent q.slot).slot q.slot = _ := slot_setSlot_same _ _ _
      rw [hslot]
      exact ⟨fun _ => ⟨rfl, q, hc, rfl⟩, fun h => absurd rfl h, fun h => absurd rfl h⟩
    · have hslot : (s.countSent q.slot).slot j = s.slot j := slot_setSlot_ne _ _ _ _ hj
      rw [hslot]
      exact ⟨fun h => absurd rfl h, fun h => absurd rfl h, fun h => absurd rfl h⟩
  | recv q hc =>
    by_cases hj : q.slot = j
    · subst hj
      have hslot : (s.countRecv q.slot).slot q.slot = _ := slot_setSlot_same _ _ _
      rw [hslot]
      exact ⟨fun h => absurd rfl h, fun _ => ⟨rfl, q, hc, rfl⟩, fun h => absurd rfl h⟩
    · have hslot : (s.countRecv q.slot).slot j = s.slot j := slot_setSlot_ne _ _ _ _ hj
      rw [hslot]
      exact ⟨fun h => absurd rfl h, fun h => absurd rfl h, fun h => absurd rfl h⟩
  | nak k sl o hc =>
    by_cases hj : sl = j
    · subst hj
      have hnak : ((s.countRecv sl).countNak sl).slot sl = _ := slot_setSlot_same _ _ _
      have hslot : (s.countRecv sl).slot sl = _ := slot_setSlot_same _ _ _
      rw [hnak, hslot]
      exact ⟨fun h => absurd rfl h, fun _ => ⟨rfl, _, hc, rfl⟩, fun _ => ⟨rfl, k, o, hc⟩⟩
    · have hnak : ((s.countRecv sl).countNak sl).slot j = (s.countRecv sl).slot j :=
        slot_setSlot_ne _ _ _ _ hj
      have hslot : (s.countRecv sl).slot j = s.slot j := slot_setSlot_ne _ _ _ _ hj
      rw [hnak, hslot]
      exact ⟨fun h => absurd rfl h, fun h => absurd rfl h, fun h => absurd rfl h⟩

/-- Settles O52: only the release of a Query counts, and the engine stands in that Query before the
step. -/
theorem countersOnlyByOwnQuery : Obligations.CountersOnlyByOwnQuery := by
  unfold Obligations.CountersOnlyByOwnQuery
  intro s t sl hinv hreset h
  obtain ⟨u, hmove, heng⟩ := step_next_inv hinv h
  have hu : u.counters sl = s.counters sl ∧ (u.defer = false → u.resume ≠ none → u.cont = s.cont) := by
    cases hmove with
    | rest _ => exact ⟨rfl, fun _ _ => rfl⟩
    | entry m l u hin _ hu =>
      have hm : m.event ≠ .reset := fun hm => by simp [(resetNext_iff hin).2 hm] at hreset
      have hrel := perform_released (hinv.schedule l m.defer) hu hm
      exact ⟨perform_counters hu hm sl, hrel⟩
  obtain ⟨hcount, hcont⟩ := hu
  have hagent : (u.slot sl).sent = (s.slot sl).sent ∧ (u.slot sl).recv = (s.slot sl).recv ∧
      (u.slot sl).nakc = (s.slot sl).nakc := by
    simpa [State.counters, Slot.counters] using hcount
  obtain ⟨hsent, hrecv, hnak⟩ := hagent
  rw [← hsent, ← hrecv, ← hnak]
  obtain rfl | ⟨-, hd, hr, v, hv, hrun⟩ := heng
  · exact ⟨fun h => absurd rfl h, fun h => absurd rfl h, fun h => absurd rfl h⟩
  · have hengine : (t.slot sl).sent = (v.slot sl).sent ∧ (t.slot sl).recv = (v.slot sl).recv ∧
        (t.slot sl).nakc = (v.slot sl).nakc := by
      simpa [State.counters, Slot.counters] using hrun.counters sl
    obtain ⟨hsent', hrecv', hnak'⟩ := hengine
    rw [hsent', hrecv', hnak', ← hcont hd hr]
    exact hv.slot sl

end Frame

end Sys2Proof.Machine
end

section
/-! PROOFS. Acceptance of the run commands and of SCAN_START (R100, R310): the preconditions in their
order, with the rejections they give (R168, R200, R201), and the deferred start (R85, R311). -/

namespace Sys2Proof.Machine

/-! ### Preconditions -/

/-- Conditions of one code give that code when one of them fails, whatever comes after. -/
theorem firstFailure_of_mem {l : List (Bool × Code)} {c : Code} (hc : ∀ x ∈ l, x.2 = c)
    (hf : ∃ x ∈ l, x.1 = true) (r : List (Bool × Code)) : firstFailure (l ++ r) = some c := by
  induction l with
  | nil => obtain ⟨x, hx, -⟩ := hf; cases hx
  | cons x l ih =>
    obtain ⟨hx, hl⟩ := List.forall_mem_cons.1 hc
    obtain ⟨b, d⟩ := x
    cases b with
    | true => exact congrArg some hx
    | false => exact ih hl (by simpa using hf)

/-- Conditions that all hold are passed over. -/
theorem firstFailure_append {l : List (Bool × Code)} (h : ∀ x ∈ l, x.1 = false)
    (r : List (Bool × Code)) : firstFailure (l ++ r) = firstFailure r := by
  induction l with
  | nil => rfl
  | cons x l ih =>
    obtain ⟨hx, hl⟩ := List.forall_mem_cons.1 h
    obtain ⟨b, d⟩ := x
    obtain rfl : b = false := hx
    exact ih hl

section Slot

variable {s : State} {k : Kind} {sl : SlotId}

theorem preQuery_of_closed (h : s.tpOpen = false) : preQuery k sl s = some .transportStateError := by
  simp [preQuery, firstFailure, needOpen, h]

theorem preTransact_of_closed (h : s.tpOpen = false) :
    preTransact k sl s = some .transportStateError := by
  simp [preTransact, firstFailure, needOpen, h]

/-- A slot or payload that QUERY and TRANSACT reject (R168, R200). -/
def State.badQuery (s : State) (k : Kind) (sl : SlotId) : Prop :=
  s.params.maxSlots < s.numAddr.toNat ∨ s.numAddr.toNat ≤ sl.toNat ∨
    s.params.cmdBufCap < (s.cmdLen k).toNat

theorem preQuery_of_open (h : s.tpOpen = true) :
    preQuery k sl s = firstFailure [needSlot sl s, needCmdLen k s] := by
  simp [preQuery, firstFailure, needOpen, h]

theorem preTransact_of_open (h : s.tpOpen = true) :
    preTransact k sl s = firstFailure [needSlot sl s, needCmdLen k s, needRetries s] := by
  simp [preTransact, firstFailure, needOpen, h]

theorem preQuery_of_bad (h : s.tpOpen = true) (hbad : s.badQuery k sl) :
    preQuery k sl s = some .configError := by
  rw [preQuery_of_open h]
  refine firstFailure_of_mem (l := [needSlot sl s, needCmdLen k s]) (by simp [needSlot, needCmdLen]) ?_ []
  simpa [needSlot, needCmdLen, State.badQuery, or_assoc] using hbad

theorem preTransact_of_bad (h : s.tpOpen = true) (hbad : s.badQuery k sl ∨ s.maxRetries = 0) :
    preTransact k sl s = some .configError := by
  rw [preTransact_of_open h]
  refine firstFailure_of_mem (l := [needSlot sl s, needCmdLen k s, needRetries s])
    (by simp [needSlot, needCmdLen, needRetries]) ?_ []
  simpa [needSlot, needCmdLen, needRetries, State.badQuery, or_assoc] using hbad

theorem preQuery_of_good (h : s.tpOpen = true) (hgood : ¬ s.badQuery k sl) :
    preQuery k sl s = none :=
  (firstFailure_eq_none _).2 (by
    simpa [needOpen, needSlot, needCmdLen, State.badQuery, h, and_assoc] using hgood)

theorem preTransact_of_good (h : s.tpOpen = true) (hgood : ¬ s.badQuery k sl)
    (hr : s.maxRetries ≠ 0) : preTransact k sl s = none := by
  have hall : ∀ x ∈ [needSlot sl s, needCmdLen k s, needRetries s], x.1 = false := by
    obtain ⟨hslots, hsl, hlen⟩ : _ ∧ _ ∧ _ := by simpa [State.badQuery] using hgood
    simpa [needSlot, needCmdLen, needRetries] using ⟨⟨hslots, hsl⟩, hlen, hr⟩
  rw [preTransact_of_open h, (firstFailure_eq_none _).2 hall]

theorem exec_transactOf (s : State) (k : Kind) (sl : SlotId) :
    exec (transactOf k sl) s = issue (transactOf k sl) (preTransact k sl)
      (launch (transactOf k sl) (startRun (transactOf k sl))) s := by
  cases k <;> rfl

theorem opOf_transactOf (k : Kind) (sl : SlotId) : opOf (transactOf k sl) = 0x0A := by
  cases k
  · exact opOf_transactSn sl
  · exact opOf_transactMeas sl

theorem exec_query_rejected {c : Code} (he : s.eng = .ready) (hp : preQuery k sl s = some c) :
    exec (.query k sl) s = .next { s with rej := ⟨c, 0x09⟩, irqPend := s.irqPend ||| 0b000100 } := by
  rw [← opOf_query k sl]
  exact issue_reject s _ _ _ c he hp

theorem exec_transact_rejected {c : Code} (he : s.eng = .ready) (hp : preTransact k sl s = some c) :
    exec (transactOf k sl) s =
      .next { s with rej := ⟨c, 0x0A⟩, irqPend := s.irqPend ||| 0b000100 } := by
  rw [← opOf_transactOf k sl, exec_transactOf]
  exact issue_reject s _ _ _ c he hp

end Slot

/-- Settles O44: the transport is tested first, and every other precondition has the one code. -/
theorem slotCommandRejections : Obligations.SlotCommandRejections := by
  unfold Obligations.SlotCommandRejections
  intro k sl s he
  refine ⟨fun hclosed => ?_, fun hopen hbad => ?_, fun hopen hzero => ?_⟩
  · exact ⟨exec_query_rejected he (preQuery_of_closed hclosed),
      exec_transact_rejected he (preTransact_of_closed hclosed)⟩
  · exact ⟨exec_query_rejected he (preQuery_of_bad hopen hbad),
      exec_transact_rejected he (preTransact_of_bad hopen (.inl hbad))⟩
  · exact exec_transact_rejected he (preTransact_of_bad hopen (.inr hzero))

/-! ### A Query's first part (R168, R169) -/

section Begin

/-- The frame of the Query that `t` runs (R110). -/
def State.frameOf (s : State) (t : Task) : List Byte :=
  requestFrame (s.slot t.slot).addr (s.payload t.kind)

/-- The frame of `t`'s Query in TXBUF, its send outstanding (R169). -/
def State.sendsFrame (s : State) (t : Task) : State :=
  (State.loadFrame { s with curSlot := t.slot } (s.frameOf t)).tpCall (.sendBytes (s.frameOf t))
    (.querySend t)

variable {s : State}

theorem queryBegin_sends (t : Task) (h : (s.cmdLen t.kind).toNat + 3 ≤ s.params.txCap) :
    queryBegin t s = .sent (s.sendsFrame t) :=
  queryBegin_fits t h

/-- All that the frame and its send request change, TXBUF apart. -/
theorem sendsFrame_eq (s : State) (t : Task) : { s.sendsFrame t with mem := s.mem } = { s with
    cont := .querySend t, curSlot := t.slot, txValid := true
    txLen := BitVec.ofNat 16 ((s.cmdLen t.kind).toNat + 3)
    chk := ⟨xorBytes (s.payload t.kind) ^^^ 0x03, s.chk.rcvd⟩
    tpReq := some ⟨s.tpSeq, .sendBytes (s.frameOf t)⟩, tpSeq := s.tpSeq + 1
    tpLog := .sendBytes (s.frameOf t) :: s.tpLog } := by
  simp only [State.sendsFrame, State.frameOf, State.loadFrame, State.tpCall, lastByte_requestFrame,
    length_requestFrame, length_payload]

theorem sendsFrame_mem (s : State) (t : Task) :
    (s.sendsFrame t).mem = Memory.setBytes s.mem 0x1000 (s.frameOf t) := rfl

theorem sendsFrame_storesAt (s : State) (t : Task) :
    s.StoresAt (s.sendsFrame t) 0x1000 (s.frameOf t) :=
  storesAt_of _ _ rfl rfl

/-- A state with the same payload, slot file and capacity builds the same frame. -/
theorem frameOf_congr {u : State} (t : Task) (hs : u.slots = s.slots)
    (hp : u.payload t.kind = s.payload t.kind) : u.frameOf t = s.frameOf t := by
  rw [State.frameOf, State.frameOf, slot_congr s u hs, hp]

theorem runQuery_fits {k : Kind} (sl : SlotId) (h : (s.cmdLen k).toNat + 3 ≤ s.params.txCap) :
    runQuery k sl s = s.sendsFrame (.query k sl) := by
  simp only [runQuery, queryBegin_sends (.query k sl) h]

/-- The end of a command with an error and the slot and kind it was for (R302). -/
theorem complete_slot_error (s : State) {c : Code} (hc : c ≠ .none) (last : Code) (sl : SlotId)
    (k : Kind) : s.complete c last sl k = { s with
      eng := .ready, cont := .none, err := ⟨c, last, sl, k⟩, irqPend := s.irqPend ||| 0b000011 } := by
  simp [State.complete, Irq.mask, hc, BitVec.or_assoc]

/-- The end of a command without an error, with the slot and kind it was for (R302). -/
theorem complete_slot_none (s : State) (sl : SlotId) (k : Kind) : s.complete .none .none sl k = { s with
      eng := .ready, cont := .none, err := ⟨.none, .none, sl, k⟩
      irqPend := s.irqPend ||| 0b000001 } := by
  simp [State.complete, Irq.mask]

theorem runQuery_overflows {k : Kind} (sl : SlotId) (h : s.params.txCap < (s.cmdLen k).toNat + 3) :
    runQuery k sl s = { s with
      eng := .ready, cont := .none, curSlot := sl, txValid := false, txLen := 0
      err := ⟨.encodingOverflow, .none, sl, k⟩, irqPend := s.irqPend ||| 0b000011 } := by
  simp only [runQuery, queryBegin_overflows (.query k sl) h, queryDone]
  exact complete_slot_error _ (by decide) _ _ _

/-! ### A Transact's first attempt (R202) -/

/-- A state as a Transact of slot `sl` leaves it when its first attempt begins (R202). -/
def State.firstAttempt (s : State) (sl : SlotId) : State :=
  { s with curSlot := sl, attempts := 1, rstate := .attempting, lastFail := .none }

theorem firstAttempt_cmdLen (s : State) (sl : SlotId) (k : Kind) :
    (s.firstAttempt sl).cmdLen k = s.cmdLen k := by
  cases k <;> rfl

theorem firstAttempt_frameOf (s : State) (sl : SlotId) (t : Task) :
    (s.firstAttempt sl).frameOf t = s.frameOf t :=
  frameOf_congr t rfl (payload_congr _ rfl rfl (firstAttempt_cmdLen s sl _))

theorem pos_of_ne_zero {x : Byte} (h : x ≠ 0) : (0 : Byte) < x := by
  rw [BitVec.lt_def]
  exact Nat.pos_of_ne_zero fun e => h (BitVec.eq_of_toNat_eq e)

/-- With an attempt to make, a Transact begins as its first Query does. -/
theorem transactBegin_eq (k : Kind) (sl : SlotId) (o : Owner) (hr : s.maxRetries ≠ 0) :
    transactBegin k sl o s = match queryBegin (.transact k sl o) (s.firstAttempt sl) with
      | .sent u => .suspended u
      | .overflow u => .ended (transactFatal k sl u) .overflow := by
  rw [transactBegin, transactAttempt]
  exact if_pos (pos_of_ne_zero hr)

theorem transactBegin_fits {k : Kind} (sl : SlotId) (o : Owner) (hr : s.maxRetries ≠ 0)
    (h : (s.cmdLen k).toNat + 3 ≤ s.params.txCap) :
    transactBegin k sl o s = .suspended ((s.firstAttempt sl).sendsFrame (.transact k sl o)) := by
  rw [transactBegin_eq k sl o hr,
    queryBegin_sends (s := s.firstAttempt sl) _
      ((congrArg (·.toNat + 3) (firstAttempt_cmdLen s sl k)).trans_le h)]

/-- All that FATAL changes (R202). -/
theorem transactFatal_eq (s : State) (k : Kind) (sl : SlotId) :
    transactFatal k sl s = { s with
      rstate := .failed, slots := (s.setSlot sl ((s.slot sl).withRetry k s.attempts .failed)).slots
      evtFifo := s.fifoAfter [eventWord .encodingOverflow 0 sl k]
      logOvf := s.ovfAfter [eventWord .encodingOverflow 0 sl k]
      irqPend := s.irqPend ||| 0b100000 } := by
  rw [transactFatal, log_eq, keepRetry_eq]
  rfl

theorem transactBegin_overflows {k : Kind} (sl : SlotId) (o : Owner) (hr : s.maxRetries ≠ 0)
    (h : s.params.txCap < (s.cmdLen k).toNat + 3) :
    transactBegin k sl o s = .ended { s with
      curSlot := sl, attempts := 1, rstate := .failed, lastFail := .none, txValid := false, txLen := 0
      slots := (s.setSlot sl ((s.slot sl).withRetry k 1 .failed)).slots
      evtFifo := s.fifoAfter [eventWord .encodingOverflow 0 sl k]
      logOvf := s.ovfAfter [eventWord .encodingOverflow 0 sl k]
      irqPend := s.irqPend ||| 0b100000 } .overflow := by
  rw [transactBegin_eq k sl o hr,
    queryBegin_overflows (s := s.firstAttempt sl) _
      (h.trans_eq (congrArg (·.toNat + 3) (firstAttempt_cmdLen s sl k)).symm)]
  simp only [transactFatal_eq]
  rfl

end Begin

/-! ### The deferred start (R85, R311) -/

section Deferred

variable (s : State) (c : Cont)

theorem setCont_cmdLen (k : Kind) : State.cmdLen { s with cont := c } k = s.cmdLen k := by
  cases k <;> rfl

theorem setCont_frameOf (t : Task) : State.frameOf { s with cont := c } t = s.frameOf t :=
  frameOf_congr t rfl (payload_congr _ rfl rfl (setCont_cmdLen s c _))

theorem setCont_sendsFrame (t : Task) : State.sendsFrame { s with cont := c } t = s.sendsFrame t := by
  rw [State.sendsFrame, State.sendsFrame, setCont_frameOf]
  rfl

theorem runQuery_setCont (k : Kind) (sl : SlotId) :
    runQuery k sl { s with cont := c } = runQuery k sl s := by
  rcases Nat.lt_or_ge s.params.txCap ((s.cmdLen k).toNat + 3) with h | h
  · rw [runQuery_overflows sl h,
      runQuery_overflows (s := { s with cont := c }) sl (by rwa [setCont_cmdLen])]
  · rw [runQuery_fits sl h, runQuery_fits (s := { s with cont := c }) sl (by rwa [setCont_cmdLen]),
      setCont_sendsFrame]

theorem runTransact_setCont (k : Kind) (sl : SlotId) :
    transactHost k sl (transactBegin k sl .host { s with cont := c }) =
      transactHost k sl (transactBegin k sl .host s) := by
  by_cases hr : s.maxRetries = 0
  · have hlt : ¬ (0 : Byte) < s.maxRetries := by simp [hr]
    simp only [transactBegin, transactAttempt, if_neg hlt]
    cases k <;> rfl
  · rcases Nat.lt_or_ge s.params.txCap ((s.cmdLen k).toNat + 3) with h | h
    · rw [transactBegin_overflows sl .host hr h, transactBegin_overflows (s := { s with cont := c })
        sl .host hr (by rwa [setCont_cmdLen])]
      rfl
    · rw [transactBegin_fits sl .host hr h, transactBegin_fits (s := { s with cont := c })
        sl .host hr (by rwa [setCont_cmdLen])]
      exact setCont_sendsFrame (s.firstAttempt sl) c _

theorem runClose_setCont : runClose { s with cont := c } = runClose s := by
  by_cases hopen : s.tpOpen = true
  · exact (runClose_of_open (s := { s with cont := c }) hopen).trans (runClose_of_open hopen).symm
  · have hclosed : s.tpOpen = false := Bool.eq_false_iff.2 hopen
    exact (runClose_of_closed (s := { s with cont := c }) hclosed).trans
      (runClose_of_closed hclosed).symm

/-- Where the engine stood before a run command's first step is nothing that step reads. -/
theorem startRun_setCont {i : Instr} (h : runCommand i = true) :
    startRun i { s with cont := c } = startRun i s := by
  cases i with
  | encode k a => cases k <;> rfl
  | query k sl => exact runQuery_setCont s c k sl
  | transactSn sl => exact runTransact_setCont s c .sn sl
  | transactMeas sl => exact runTransact_setCont s c .meas sl
  | closeTp => exact runClose_setCont s c
  | verify => rfl
  | decode => rfl
  | openTp => rfl
  | send => rfl
  | recv => rfl
  | flush => rfl
  | delay ms => rfl
  | scanStart => cases h
  | shutdown => cases h
  | resultAck c => cases h

end Deferred

theorem precondition_setDefer (i : Instr) (s : State) (d : Bool) :
    precondition i { s with defer := d } = precondition i s := by
  cases i with
  | encode k a => cases k <;> rfl
  | query k sl => cases k <;> rfl
  | _ => rfl

/-- Settles O45: the preconditions do not read the schedule's deferral, and the first engine step does not
read where the engine stood. -/
theorem deferredStartRunsTheSame : Obligations.DeferredStartRunsTheSame := by
  unfold Obligations.DeferredStartRunsTheSame
  intro i s hshut hscan hack he hd hr
  have hi : runCommand i = true := by
    by_contra hn
    rcases eq_of_not_runCommand (Bool.eq_false_iff.2 hn) with h | h | ⟨c, h⟩
    exacts [hscan h, hshut h, hack c h]
  rw [exec_runCommand hi, exec_runCommand hi]
  cases hp : precondition i s with
  | some c =>
    refine .inl ⟨c, issue_reject s _ _ _ c he hp, ?_⟩
    exact issue_reject { s with defer := false } _ _ _ c he ((precondition_setDefer i s false).trans hp)
  | none =>
    refine .inr ⟨?_, ?_⟩
    · rw [issue_accept _ _ _ _ he hp, launch_defer _ _ _ hd]
    · rw [issue_launch_now (s := { s with defer := false }) he
        ((precondition_setDefer i s false).trans hp) rfl]
      have hrun := startRun_setCont { s with eng := .cmd, defer := false } (.start i) hi
      rw [← hrun]
      simp only [engineMove, Cont.fits, runFrom, if_true, ← hr]

end Sys2Proof.Machine
end

section
/-! PROOFS. The commands of the device session and of the retry controller that wait (R163, R165, R167, R168,
R169, R200, R201): what their first engine step leaves, and how a receive or a sleep that ends lets the
engine run on. -/

namespace Sys2Proof.Machine

/-! ### A suspension that ends lets the engine run on in the same step (R11, R165, R166) -/

section Resumed

variable {s t : State} {c : Cont} {rest : List Move}

theorem step_receive_answer_runs {tag : Nat} {d : Time} {a : TpAnswer}
    (h : s.Receives c tag d (answerMove tag a) rest) (hn : s.now < d)
    (ha : a = .timeout ∨ ∃ b, a = .bytes b ∧ b.length ≤ s.params.rxCap)
    (hf : c.fits (.answered a) = true)
    (ht : runFrom c (.answered a)
      { s with inputs := rest, defer := false, tpReq := none, rxDeadline := none } = t)
    (hs : t.cont ≠ .spin) : step s = .next t := by
  obtain rfl := h.cont
  rw [step_receive_answer h hn ha]
  refine settle_run (r := .answered a) ?_ ?_ ?_ t ?_ hs
  exacts [rfl, rfl, hf, by rw [← ht, h.resume]]

theorem step_receive_deadline_runs {tag : Nat} {d : Time}
    (h : s.Receives c tag d tickMove rest) (hd : d = s.now + 1) (hf : c.fits .deadline = true)
    (ht : runFrom c .deadline { s with
      inputs := rest, defer := false, now := s.now + 1, tpReq := none, rxDeadline := none } = t)
    (hs : t.cont ≠ .spin) : step s = .next t := by
  obtain rfl := h.cont
  rw [step_receive_deadline h hd]
  refine settle_run (r := .deadline) ?_ ?_ ?_ t ?_ hs
  exacts [rfl, rfl, hf, by rw [← ht, h.resume]]

theorem step_wake_runs (h : s.Wakes c rest) (hf : c.fits .woke = true)
    (ht : runFrom c .woke { s with
      inputs := rest, defer := false, now := s.now + 1, sleepUntil := none } = t)
    (hs : t.cont ≠ .spin) : step s = .next t := by
  obtain rfl := h.cont
  rw [step_wake h]
  refine settle_run (r := .woke) ?_ ?_ ?_ t ?_ hs
  exacts [rfl, rfl, hf, by rw [← ht, h.resume]]

end Resumed

/-! ### Receives (R165, R166) -/

section Receive

variable {s : State} {k : Cont}

theorem receive_pos (h : s.params.rxTimeoutMs ≠ 0) : s.receive k =
    some { s.tpCall s.recvReq k with
      rxDeadline := some (s.now + s.params.rxTimeoutMs.setWidth 64) } :=
  (receive_cases s k).resolve_left (fun hz => h hz.1) |>.2

theorem receive_zero (h : s.params.rxTimeoutMs = 0) : s.receive k = none :=
  (receive_cases s k).resolve_right (fun hz => hz.1 h) |>.2

theorem preReceive_of_closed (h : s.tpOpen = false) : preReceive s = some .transportStateError := by
  simp [preReceive, firstFailure, needOpen, h]

theorem preReceive_of_open (h : s.tpOpen = true) : preReceive s = none :=
  (firstFailure_eq_none _).2 (by simp [needOpen, h])

theorem runRecv_waits (h : s.params.rxTimeoutMs ≠ 0) : runRecv s = { s.tpCall s.recvReq .recvAns with
    rxDeadline := some (s.now + s.params.rxTimeoutMs.setWidth 64) } := by
  rw [runRecv, receive_pos h]
  rfl

theorem runRecv_at_once (h : s.params.rxTimeoutMs = 0) :
    runRecv s = recvGot none s.receiveNow := by
  rw [runRecv, receive_zero h]
  rfl

theorem runFlush_waits (h : s.params.rxTimeoutMs ≠ 0) :
    runFlush s = { s.tpCall s.recvReq .flushAns with
      rxDeadline := some (s.now + s.params.rxTimeoutMs.setWidth 64) } := by
  rw [runFlush, receive_pos h]
  rfl

theorem runFlush_at_once (h : s.params.rxTimeoutMs = 0) : runFlush s = flushGot s.receiveNow := by
  rw [runFlush, receive_zero h]
  rfl

theorem recvGot_none (s : State) : recvGot none s = { s with
    eng := .ready, cont := .none, rxLen := 0
    err := ⟨.timeoutError, .none, 0, .sn⟩, irqPend := s.irqPend ||| 0b000011 } :=
  complete_error_eq (s.takeRx none) (by decide)

theorem recvGot_some (s : State) (b : List Byte) : recvGot (some b) s = { s.takeRx (some b) with
    eng := .ready, cont := .none
    err := ⟨.none, .none, 0, .sn⟩, irqPend := s.irqPend ||| 0b000001 } :=
  complete_none_eq (s.takeRx (some b))

end Receive

/-- Settles O18: TP_OPEN decides acceptance and RX_TIMEOUT_MS whether the receive waits; what it got decides
the completion. -/
theorem recvCommandReceives : Obligations.RecvCommandReceives := by
  unfold Obligations.RecvCommandReceives
  refine ⟨fun s he hd => ⟨fun hclosed => ?closed, fun hopen hms => ?waits, fun hopen hms => ?atOnce⟩,
    fun s tag d rest => ⟨fun b hrx hn hb => ?bytes, fun hrx hn => ?timeout, fun hrx hd => ?deadline⟩⟩
  case closed =>
    rw [← opOf_recv]
    exact issue_reject s _ _ _ _ he (preReceive_of_closed hclosed)
  case waits =>
    exact (issue_launch_now he (preReceive_of_open hopen) hd).trans
      (congrArg _ (runRecv_waits (s := { s with eng := .cmd }) hms))
  case atOnce =>
    refine (issue_launch_now he (preReceive_of_open hopen) hd).trans (congrArg _ ?_)
    rw [runRecv_at_once (s := { s with eng := .cmd }) hms, recvGot_none, ← hms]
    rfl
  case bytes =>
    refine ⟨_, step_receive_answer_runs hrx hn (.inr ⟨b, rfl, hb⟩) rfl (recvGot_some _ b) nofun, rfl,
      storesAt_of _ _ rfl rfl⟩
  case timeout =>
    exact step_receive_answer_runs hrx hn (.inl rfl) rfl (recvGot_none _) nofun
  case deadline =>
    exact step_receive_deadline_runs hrx hd rfl (recvGot_none _) nofun

/-- Settles O19: as for RECV, but what the receive got is not even looked at. -/
theorem flushCommandDiscards : Obligations.FlushCommandDiscards := by
  unfold Obligations.FlushCommandDiscards
  refine ⟨fun s he hd => ⟨fun hclosed => ?closed, fun hopen hms => ?waits, fun hopen hms => ?atOnce⟩,
    fun s tag d rest => ⟨fun a hrx hn ha => ?answer, fun hrx hd => ?deadline⟩⟩
  case closed =>
    rw [← opOf_flush]
    exact issue_reject s _ _ _ _ he (preReceive_of_closed hclosed)
  case waits =>
    exact (issue_launch_now he (preReceive_of_open hopen) hd).trans
      (congrArg _ (runFlush_waits (s := { s with eng := .cmd }) hms))
  case atOnce =>
    refine (issue_launch_now he (preReceive_of_open hopen) hd).trans (congrArg _ ?_)
    rw [runFlush_at_once (s := { s with eng := .cmd }) hms, flushGot, complete_none_eq, ← hms]
    rfl
  case answer =>
    have hfit : Cont.fits .flushAns (.answered a) = true := by
      obtain rfl | ⟨b, rfl, -⟩ := ha <;> rfl
    exact step_receive_answer_runs hrx hn ha hfit (complete_none_eq _) nofun
  case deadline =>
    exact step_receive_deadline_runs hrx hd rfl (complete_none_eq _) nofun

/-! ### QUERY and TRANSACT from acceptance (R168, R200, R201) -/

section Start

variable {s : State} {k : Kind} {sl : SlotId}

theorem not_badQuery (hslots : s.numAddr.toNat ≤ s.params.maxSlots) (hsl : sl.toNat < s.numAddr.toNat)
    (hlen : (s.cmdLen k).toNat ≤ s.params.cmdBufCap) : ¬ s.badQuery k sl := by
  rintro (h | h | h)
  exacts [absurd h (Nat.not_lt.2 hslots), absurd h (Nat.not_le.2 hsl), absurd h (Nat.not_lt.2 hlen)]

theorem exec_query_accepted (he : s.eng = .ready) (hd : s.defer = false) (hopen : s.tpOpen = true)
    (hgood : ¬ s.badQuery k sl) :
    exec (.query k sl) s = .next (runQuery k sl { s with eng := .cmd }) :=
  issue_launch_now he (preQuery_of_good hopen hgood) hd

theorem startRun_transactOf (k : Kind) (sl : SlotId) (s : State) :
    startRun (transactOf k sl) s = transactHost k sl (transactBegin k sl .host s) := by
  cases k <;> rfl

theorem exec_transact_accepted (he : s.eng = .ready) (hd : s.defer = false) (hopen : s.tpOpen = true)
    (hgood : ¬ s.badQuery k sl) (hr : s.maxRetries ≠ 0) :
    exec (transactOf k sl) s =
      .next (transactHost k sl (transactBegin k sl .host { s with eng := .cmd })) := by
  rw [exec_transactOf, issue_launch_now he (preTransact_of_good hopen hgood hr) hd,
    startRun_transactOf]

theorem setEng_frameOf (s : State) (e : Eng) (t : Task) :
    State.frameOf { s with eng := e } t = s.frameOf t :=
  frameOf_congr t rfl (payload_setEng s e _)

end Start

/-! ### The first attempt's send (R202) -/

section FirstSend

/-- A Transact in its first attempt's send (R202, R169). -/
def State.firstSend (s : State) (k : Kind) (sl : SlotId) (o : Owner) : State :=
  (s.firstAttempt sl).sendsFrame (.transact k sl o)

variable {s : State}

theorem transactBegin_sends {k : Kind} (sl : SlotId) (o : Owner) (hr : s.maxRetries ≠ 0)
    (h : (s.cmdLen k).toNat + 3 ≤ s.params.txCap) :
    transactBegin k sl o s = .suspended (s.firstSend k sl o) :=
  transactBegin_fits sl o hr h

theorem firstSend_eq (s : State) (k : Kind) (sl : SlotId) (o : Owner) :
    { s.firstSend k sl o with mem := s.mem } = { s with
      cont := .querySend (.transact k sl o), curSlot := sl
      attempts := 1, rstate := .attempting, lastFail := .none, txValid := true
      txLen := BitVec.ofNat 16 ((s.cmdLen k).toNat + 3)
      chk := ⟨xorBytes (s.payload k) ^^^ 0x03, s.chk.rcvd⟩
      tpReq := some ⟨s.tpSeq, .sendBytes (requestFrame (s.slot sl).addr (s.payload k))⟩
      tpSeq := s.tpSeq + 1
      tpLog := .sendBytes (requestFrame (s.slot sl).addr (s.payload k)) :: s.tpLog } := by
  have h := sendsFrame_eq (s.firstAttempt sl) (.transact k sl o)
  rw [firstAttempt_frameOf, firstAttempt_cmdLen,
    payload_congr (t := s.firstAttempt sl) _ rfl rfl (firstAttempt_cmdLen s sl _)] at h
  exact h

theorem firstSend_mem (s : State) (k : Kind) (sl : SlotId) (o : Owner) :
    (s.firstSend k sl o).mem =
      Memory.setBytes s.mem 0x1000 (requestFrame (s.slot sl).addr (s.payload k)) := by
  have h := sendsFrame_mem (s.firstAttempt sl) (.transact k sl o)
  rw [firstAttempt_frameOf] at h
  exact h

theorem firstSend_storesAt (s : State) (k : Kind) (sl : SlotId) (o : Owner) :
    s.StoresAt (s.firstSend k sl o) 0x1000 (requestFrame (s.slot sl).addr (s.payload k)) :=
  storesAt_of _ _ (firstSend_mem s k sl o) rfl

end FirstSend

/-- Settles O20: the payload's length against TX_CAP decides between the overflow and the frame sent. -/
theorem queryCommandSends : Obligations.QueryCommandSends := by
  unfold Obligations.QueryCommandSends
  intro k sl s he hd hopen hslots hsl hlen
  have haccept := exec_query_accepted he hd hopen (not_badQuery (k := k) hslots hsl hlen)
  refine ⟨fun hover => ?_, fun hfit => ?_⟩
  · rw [haccept, runQuery_overflows sl (by rwa [cmdLen_setEng])]
  · rw [runQuery_fits sl (by rwa [cmdLen_setEng])] at haccept
    refine ⟨_, haccept, ?_, ?_⟩
    · have h := sendsFrame_eq { s with eng := .cmd } (.query k sl)
      rw [setEng_frameOf, payload_setEng, cmdLen_setEng] at h
      exact h
    · have h := sendsFrame_storesAt { s with eng := .cmd } (.query k sl)
      rw [setEng_frameOf] at h
      exact h

/-- Settles O23: the payload's length against TX_CAP decides between the first attempt and FATAL. -/
theorem transactCommandStarts : Obligations.TransactCommandStarts := by
  unfold Obligations.TransactCommandStarts
  intro k sl s he hd hopen hslots hsl hlen hr
  have haccept := exec_transact_accepted he hd hopen (not_badQuery (k := k) hslots hsl hlen) hr
  refine ⟨fun hfit => ?_, fun hover => ?_⟩
  · rw [transactBegin_sends (s := { s with eng := .cmd }) sl .host hr (by rwa [cmdLen_setEng])]
      at haccept
    refine ⟨_, haccept, ?_, ?_⟩
    · have h := firstSend_eq { s with eng := .cmd } k sl .host
      rw [payload_setEng, cmdLen_setEng] at h
      exact h
    · have h := firstSend_storesAt { s with eng := .cmd } k sl .host
      rw [payload_setEng] at h
      exact h
  · rw [transactBegin_overflows (s := { s with eng := .cmd }) sl .host hr (by rwa [cmdLen_setEng]),
      transactHost, transactDone, complete_slot_error _ (by decide)] at haccept
    refine ⟨_, haccept, ?_, ?_, fun sl' hne => slot_setSlot_ne s sl sl' _ (Ne.symm hne)⟩
    · simp only [BitVec.or_assoc]
      rfl
    · cases k <;> exact slot_setSlot_same s sl _

/-! ### DELAY (R270) -/

theorem runDelay_zero (s : State) : runDelay 0 s = s.complete .none := by
  rw [runDelay, show (0 : BitVec 24).setWidth 64 = (0 : Time) from rfl, sleep_zero]
  rfl

theorem delay_ne_zero {ms : BitVec 24} (h : ms ≠ 0) : ms.setWidth 64 ≠ (0 : Time) := by
  intro e
  have hms : ms.toNat = 0 := by
    have h1 := congrArg BitVec.toNat e
    rwa [BitVec.toNat_setWidth, Nat.mod_eq_of_lt (ms.isLt.trans (by decide))] at h1
  exact h (BitVec.eq_of_toNat_eq hms)

theorem runDelay_sleeps {s : State} {ms : BitVec 24} (h : ms ≠ 0) : runDelay ms s = { s with
    cont := .delaying, sleepUntil := some (s.now + ms.setWidth 64) } := by
  rw [runDelay, sleep_pos _ _ _ (delay_ne_zero h)]
  rfl

theorem exec_delay_accepted {s : State} (he : s.eng = .ready) (hd : s.defer = false) (ms : BitVec 24) :
    exec (.delay ms) s = .next (runDelay ms { s with eng := .cmd }) :=
  issue_launch_now (pre := preNone) he rfl hd

/-! ### Ticks that do not reach a deadline (R11, R50) -/

/-- A sleeping engine with no receive under way. -/
structure State.Asleep (s : State) (d : Time) : Prop where
  cont : s.cont ≠ .spin
  sleepUntil : s.sleepUntil = some d
  rxDeadline : s.rxDeadline = none
  resume : s.resume = none

section Sleep

variable {s : State} {d : Time} {rest : List Move}

/-- A tick before the deadline only lets time pass. -/
theorem step_asleep (h : s.Asleep d) (hin : s.inputs = tickMove :: rest) (hd : s.now + 1 < d) :
    step s = .next { s with inputs := rest, defer := false, now := s.now + 1 } := by
  obtain ⟨hc, hs, hrx, hr⟩ := h
  have hnot : ¬ d ≤ s.now + 1#64 := BitVec.not_le.2 hd
  simp [step, nextStep, hin, hr, tickMove, performThenSettle, perform, tick, State.wakeSleeper, hs,
    hnot, State.expireRx, hrx, settle, hc, engineMove]

theorem stepN_add {m n : Nat} {s t : State} (h : stepN m s = .next t) :
    stepN (m + n) s = stepN n t := by
  induction m generalizing s with
  | zero => obtain rfl : s = t := Host.Outcome.next.inj h; rw [Nat.zero_add]
  | succ m ih =>
    rw [Nat.succ_add, stepN]
    rw [stepN] at h
    cases hs : step s with
    | next u => rw [hs] at h; exact ih h
    | fault f => rw [hs] at h; cases h
    | refused r => rw [hs] at h; cases h

theorem stepN_one (s : State) : stepN 1 s = step s := by
  rw [stepN]
  cases step s <;> rfl

theorem add_one_add_ofNat {w : Nat} (x : BitVec w) (n : Nat) :
    x + 1 + BitVec.ofNat w n = x + BitVec.ofNat w (n + 1) := by
  rw [BitVec.add_assoc, Nat.add_comm n 1, BitVec.ofNat_add]
  rfl

theorem toNat_add_ofNat {x : Time} {n : Nat} (h : x.toNat + n < 2 ^ 64) :
    (x + BitVec.ofNat 64 n).toNat = x.toNat + n := by
  rw [BitVec.toNat_add, BitVec.toNat_ofNat, Nat.mod_eq_of_lt (by omega : n < 2 ^ 64),
    Nat.mod_eq_of_lt h]

/-- So do any number of ticks before the deadline. -/
theorem stepN_asleep {n : Nat} (h : s.Asleep d) (hin : s.inputs = List.replicate n tickMove ++ rest)
    (hd : s.now.toNat + n < d.toNat) : stepN n s = .next { s with
      inputs := rest, defer := s.defer && decide (n = 0), now := s.now + BitVec.ofNat 64 n } := by
  induction n generalizing s with
  | zero =>
    obtain rfl : s.inputs = rest := hin
    rw [stepN]
    simp
  | succ n ih =>
    have hlt := d.isLt
    have hone : (s.now + 1).toNat = s.now.toNat + 1 := toNat_add_ofNat (n := 1) (by omega)
    have hstep := step_asleep h hin (BitVec.lt_def.2 (by omega))
    have hih := ih (s := { s with inputs := List.replicate n tickMove ++ rest, defer := false, now := s.now + 1 })
      ⟨h.cont, h.sleepUntil, h.rxDeadline, h.resume⟩ rfl (by show (s.now + 1).toNat + n < _; omega)
    rw [stepN, hstep]
    refine hih.trans ?_
    simp only [add_one_add_ofNat, Bool.false_and, Nat.succ_ne_zero, decide_false, Bool.and_false]

/-- The ticks of a whole sleep of `n` milliseconds: those that pass, and the one that wakes. -/
theorem stepN_sleep {c : Cont} {n : Nat} {t : State} (hn : n ≠ 0)
    (h : s.Asleep (s.now + BitVec.ofNat 64 n)) (hc : s.cont = c) (htp : s.tpReq = none)
    (hin : s.inputs = List.replicate n tickMove ++ rest) (hlt : s.now.toNat + n < 2 ^ 64)
    (hf : c.fits .woke = true)
    (ht : runFrom c .woke { s with
      inputs := rest, defer := false, now := s.now + BitVec.ofNat 64 n, sleepUntil := none } = t)
    (hs : t.cont ≠ .spin) : stepN n s = .next t := by
  obtain ⟨m, rfl⟩ : ∃ m, n = m + 1 := Nat.exists_eq_succ_of_ne_zero hn
  have hd : (s.now + BitVec.ofNat 64 (m + 1)).toNat = s.now.toNat + (m + 1) := toNat_add_ofNat hlt
  have hpass := stepN_asleep (n := m) (rest := tickMove :: rest) h
    (by rw [hin, List.replicate_succ', List.append_assoc]; rfl) (by omega)
  have hnow : s.now + BitVec.ofNat 64 (m + 1) = s.now + BitVec.ofNat 64 m + 1 := by
    rw [BitVec.ofNat_add, ← BitVec.add_assoc]
    rfl
  rw [stepN_add hpass, stepN_one]
  refine step_wake_runs (c := c) ⟨hc, ?_, htp, h.rxDeadline, h.resume, rfl⟩ hf ?_ hs
  · exact h.sleepUntil.trans (congrArg some hnow)
  · rw [← ht, hnow]

end Sleep

/-- Settles O40: the ticks before the deadline only let time pass, and the one that reaches it
completes the command. -/
theorem delayCommandSleepsExactly : Obligations.DelayCommandSleepsExactly := by
  unfold Obligations.DelayCommandSleepsExactly
  refine ⟨fun ms s he hd => ⟨fun hz => ?zero, fun hpos => ?sleeps⟩,
    fun ms s rest he hd hpos hr hw hlt hin => ?ticks⟩
  case zero =>
    subst hz
    rw [exec_delay_accepted he hd, runDelay_zero, complete_none_eq]
  case sleeps => rw [exec_delay_accepted he hd, runDelay_sleeps hpos]
  case ticks =>
    obtain ⟨hs, htp, hrx⟩ := hw
    have hms : ms.setWidth 64 = BitVec.ofNat 64 ms.toNat := (BitVec.ofNat_toNat 64 ms).symm
    have hpos' : ms.toNat ≠ 0 := fun e => hpos (BitVec.eq_of_toNat_eq e)
    have hasleep : State.Asleep { s with
        eng := .cmd, cont := .delaying, sleepUntil := some (s.now + ms.setWidth 64) }
        (s.now + BitVec.ofNat 64 ms.toNat) := by
      rw [hms]
      exact ⟨nofun, rfl, hrx, hr⟩
    refine ⟨_, by rw [exec_delay_accepted he hd, runDelay_sleeps hpos], fun k hk => ?_, ?_⟩
    · have hd' : (s.now + BitVec.ofNat 64 ms.toNat).toNat = s.now.toNat + ms.toNat :=
        toNat_add_ofNat hlt
      have hin' : s.inputs = List.replicate k tickMove ++
          (List.replicate (ms.toNat - k) tickMove ++ rest) := by
        rw [hin, ← List.append_assoc, ← List.replicate_add, Nat.add_sub_cancel' hk.le]
      refine ⟨_, stepN_asleep hasleep hin' ?_, rfl, toNat_add_ofNat (x := s.now) (by omega)⟩
      rw [hd']
      exact Nat.add_lt_add_left hk _
    · refine stepN_sleep (c := .delaying) hpos' hasleep rfl htp hin hlt rfl ?_ nofun
      refine (complete_none_eq _).trans ?_
      simp only [hms, hs, hd]

end Sys2Proof.Machine
end

section
/-! PROOFS. The parts of a Query after its send (R169): the settle interval, the receive, and what the answer
leaves in the slot file and in the buffers; from them the ends of QUERY (R168). -/

namespace Sys2Proof.Machine

/-! ### Several byte sequences written one after another -/

/-- The byte sequences `ws`, each at its address, written in order. -/
def Memory.setAll (m : List Host.Cell) (ws : List (Nat × List Byte)) : List Host.Cell :=
  ws.foldl (fun m w => Memory.setBytes m w.1 w.2) m

/-- Whether the `n` bytes from `a` lie outside a byte sequence written at its address. -/
def Outside (a n : Nat) (w : Nat × List Byte) : Prop := a + n ≤ w.1 ∨ w.1 + w.2.length ≤ a

section SetAll

variable {s t : State} {ws : List (Nat × List Byte)}

/-- A byte outside all of them reads as before. -/
theorem byteAt_setAll_out (hm : t.mem = Memory.setAll s.mem ws) (he : t.epoch = s.epoch) {a : Nat}
    (h : ∀ w ∈ ws, Outside a 1 w) : t.byteAt a = s.byteAt a := by
  induction ws generalizing s with
  | nil => exact byteAt_congr s t hm he a
  | cons w ws ih =>
    obtain ⟨hw, hws⟩ := List.forall_mem_cons.1 h
    exact (ih (s := s.putBytes w.1 w.2) hm he hws).trans (byteAt_putBytes_out s _ _ _ hw)

/-- So does a sequence outside all of them. -/
theorem bytesAt_setAll_out (hm : t.mem = Memory.setAll s.mem ws) (he : t.epoch = s.epoch)
    {base n : Nat} (h : ∀ w ∈ ws, Outside base n w) : t.bytesAt base n = s.bytesAt base n := by
  refine List.map_congr_left fun j hj => byteAt_setAll_out hm he fun w hw => ?_
  have hlt := List.mem_range.1 hj
  exact (h w hw).imp (by omega) (by omega)

/-- A sequence that no later one touches reads back. -/
theorem bytesAt_setAll_in (hm : t.mem = Memory.setAll s.mem ws) (he : t.epoch = s.epoch)
    (hd : ws.Pairwise fun v w => Outside v.1 v.2.length w) {w : Nat × List Byte} (hw : w ∈ ws) :
    t.bytesAt w.1 w.2.length = w.2 := by
  induction ws generalizing s with
  | nil => cases hw
  | cons v ws ih =>
    obtain ⟨hv, hws⟩ := List.pairwise_cons.1 hd
    rcases List.mem_cons.1 hw with rfl | hw
    · exact (bytesAt_setAll_out (s := s.putBytes w.1 w.2) hm he hv).trans (bytesAt_putBytes s _ _)
    · exact ih (s := s.putBytes v.1 v.2) hm he hws hw

end SetAll

/-! ### The slot file -/

theorem setSlot_self (s : State) (sl : SlotId) : s.setSlot sl (s.slot sl) = s := by
  simp only [State.setSlot, State.slot, Vector.set_getElem_self]

/-! ### What a receive brings to a Query (R169) -/

section Got

variable {t : Task} {s : State} {b : List Byte}

theorem queryGot_mismatch {c : Byte} (h : decodeFrame b = .mismatch c) : queryGot t (some b) s =
    ({ s with
      mem := Memory.setAll s.mem [(0x2000, b)], rxLen := BitVec.ofNat 9 b.length
      chk := ⟨c, lastByte b⟩ }, .err .checksumMismatch) := by
  obtain ⟨hne, rfl⟩ := decodeFrame_mismatch h
  simp only [queryGot, h, noteChk_of_ne_nil _ hne]
  rfl

/-- A decoded answer as its Query leaves it: counted, and stored in RXBUF and RESULT. -/
def State.decoded (s : State) (sl : SlotId) (b : List Byte) (st : Byte) (p : List Byte) (c : Byte) :
    State :=
  { s with
    mem := Memory.setAll s.mem [(0x2000, b), (0x2100, p)], rxLen := BitVec.ofNat 9 b.length
    chk := ⟨c, b.getLastD 0⟩, respStatus := st, resultLen := BitVec.ofNat 8 p.length
    slots := (s.setSlot sl { s.slot sl with recv := (s.slot sl).recv + 1 }).slots }

theorem queryGot_ok {st : Byte} {p : List Byte} {c : Byte} (h : decodeFrame b = .ok st p c) :
    queryGot t (some b) s = (s.decoded t.slot b st p c, .ok st p) := by
  obtain ⟨hne, rfl, -⟩ := decodeFrame_ok h
  simp only [queryGot, h, noteChk_of_ne_nil _ hne]
  rfl

/-- After its receive a Query ends, and its caller goes on. -/
theorem runFrom_queryRecv {r : Resume} {u : State} {q : QResult} (h : queryGot t r.rx s = (u, q)) :
    runFrom (.queryRecv t) r s = afterQuery t q u := by
  simp only [runFrom, h]

/-- An answer and its payload fit RXBUF and RESULT, which lie one after the other (R49). -/
theorem answer_lengths {st : Byte} {p : List Byte} {c : Byte} (h : decodeFrame b = .ok st p c)
    (hb : b.length ≤ s.params.rxCap) (hcap : s.params.rxCap ≤ 256) :
    b.length ≤ 256 ∧ p.length ≤ 256 := by
  obtain ⟨-, -, rfl, -⟩ := decodeFrame_ok h
  have hp := length_unpack b
  omega

end Got

/-- A state that differs by an answer in RXBUF and its payload in RESULT. -/
theorem storesAnswer_of {s t : State} {b p : List Byte}
    (hm : t.mem = Memory.setAll s.mem [(0x2000, b), (0x2100, p)]) (he : t.epoch = s.epoch)
    (hb : b.length ≤ 256) : s.StoresAnswer t b p := by
  have hd : [(0x2000, b), (0x2100, p)].Pairwise fun v w => Outside v.1 v.2.length w := by
    simpa [Outside] using .inl (by omega)
  refine ⟨bytesAt_setAll_in hm he hd (w := (0x2000, b)) (by simp),
    bytesAt_setAll_in hm he hd (w := (0x2100, p)) (by simp), fun a h1 h2 => ?_⟩
  refine byteAt_setAll_out hm he ?_
  simpa [Outside, Nat.succ_le_iff] using ⟨h1, h2⟩

/-! ### The settle interval and the receive (R169, D10) -/

theorem queryReceive_waits {s : State} (t : Task) (h : s.params.rxTimeoutMs ≠ 0) :
    queryReceive t s = .suspended { s.tpCall s.recvReq (.queryRecv t) with
      rxDeadline := some (s.now + s.params.rxTimeoutMs.setWidth 64) } :=
  (queryReceive_cases s t).resolve_right (fun hz => h hz.1) |>.2

/-- Settles O21: the answer Ok counts SENT and starts the sleep, and its end makes the receive. -/
theorem querySettlesThenReceives : Obligations.QuerySettlesThenReceives := by
  unfold Obligations.QuerySettlesThenReceives
  refine fun s q tag f rest => ⟨fun hcall hms => ?_, fun hwake hms => ?_⟩
  · refine ⟨_, step_answer_runs hcall rfl rfl (congrArg (afterProgress q)
      (queryAfterSend_settles (s := { s with inputs := rest, defer := false, tpReq := none }) q hms)) nofun,
      rfl, slot_setSlot_same s _ _, fun sl hne => slot_setSlot_ne s _ _ _ (Ne.symm hne)⟩
  · exact step_wake_runs hwake rfl (congrArg (afterProgress q) (queryReceive_waits (s := { s with
      inputs := rest, defer := false, now := s.now + 1, sleepUntil := none }) q hms)) nofun

/-! ### How QUERY ends (R168) -/

/-- Settles O22: what the send or the receive brings decides QUERY's code. -/
theorem queryCommandEnds : Obligations.QueryCommandEnds := by
  unfold Obligations.QueryCommandEnds
  intro s k sl tag rest
  refine ⟨fun f hcall => ?fail, fun d hrx hd => ?deadline, fun d hrx hd => ?timeout,
    fun d hrx hd => ?empty, fun d b c hrx hd hb hc => ?mismatch,
    fun d b st p c hrx hd hb hcap hc => ?decoded⟩
  case fail =>
    exact step_answer_runs hcall rfl rfl (complete_slot_error _ (by decide) _ _ _) nofun
  case deadline =>
    exact step_receive_deadline_runs hrx hd rfl (complete_slot_error _ (by decide) _ _ _) nofun
  case timeout =>
    exact step_receive_answer_runs hrx hd (.inl rfl) rfl (complete_slot_error _ (by decide) _ _ _) nofun
  case empty =>
    exact step_receive_answer_runs hrx hd (.inr ⟨[], rfl, Nat.zero_le _⟩) rfl
      (complete_slot_error _ (by decide) _ _ _) nofun
  case mismatch =>
    have hrun := runFrom_queryRecv (t := .query k sl) (r := .answered (.bytes b))
      (queryGot_mismatch (t := .query k sl) (s := { s with
        inputs := rest, defer := false, tpReq := none, rxDeadline := none }) hc)
    have hend := hrun.trans (complete_slot_error _ (by decide) _ _ _)
    exact ⟨_, step_receive_answer_runs hrx hd (.inr ⟨b, rfl, hb⟩) rfl hend nofun, rfl,
      storesAt_of _ _ rfl rfl⟩
  case decoded =>
    have hrun := runFrom_queryRecv (t := .query k sl) (r := .answered (.bytes b))
      (queryGot_ok (t := .query k sl) (s := { s with
        inputs := rest, defer := false, tpReq := none, rxDeadline := none }) hc)
    have hend := hrun.trans (complete_slot_none _ _ _)
    obtain ⟨hlb, hlp⟩ := answer_lengths (s := s) hc hb hcap
    refine ⟨_, step_receive_answer_runs hrx hd (.inr ⟨b, rfl, hb⟩) rfl hend nofun, rfl,
      slot_setSlot_same s _ _, fun sl' hne => slot_setSlot_ne s _ _ _ (Ne.symm hne), ?_⟩
    exact storesAnswer_of rfl rfl hlb

end Sys2Proof.Machine
end

section
/-! PROOFS. The outcome of one attempt of a Transact (R202, R210 to R216): one state for every way an attempt
fails, and what each owner of the Transact makes of it. -/

namespace Sys2Proof.Machine

/-! ### The owner of a Transact goes on (R200, R201, R238) -/

/-- What an owner makes of a Transact that is suspended or has ended. -/
def Owner.goesOn : Owner → Kind → SlotId → TProgress → State
  | .host => transactHost
  | .scan => transactScan

theorem afterQuery_transact (k : Kind) (sl : SlotId) (o : Owner) (r : QResult) (s : State) :
    afterQuery (.transact k sl o) r s = o.goesOn k sl (transactOutcome k sl o r s) := by
  cases o <;> rfl

theorem goesOn_suspended (o : Owner) (k : Kind) (sl : SlotId) (s : State) :
    o.goesOn k sl (.suspended s) = s := by
  cases o <;> rfl

/-! ### An attempt that fails (R202, R210, R211, R212) -/

/-- RSTATE after a failed attempt (R202). -/
def Failed.rstate (x : Failed) : RState :=
  if x.code = .negativeAcknowledge then .naked else .attempting

/-- The LOG bit of IRQ_PEND, if a failed attempt logs (R307). -/
def Failed.irq (x : Failed) : BitVec 6 :=
  if x.code = .negativeAcknowledge then 0b000000 else 0b100000

/-- The state with which the loop of a Transact is tested again after a failed attempt. -/
def State.afterFailed (s : State) (k : Kind) (sl : SlotId) (rest : List Move) (x : Failed) : State :=
  { s with
    inputs := rest, defer := false, now := x.now, tpReq := none, rxDeadline := none
    rstate := x.rstate, lastFail := x.code
    rxLen := x.rxLen, chk := x.chk, respStatus := x.respStatus, resultLen := x.resultLen
    mem := Memory.setAll s.mem [(0x2000, x.rx), (0x2100, x.result)]
    slots := (s.setSlot sl (x.slotAfter (s.slot sl))).slots
    evtFifo := s.fifoAfter (x.events k sl), logOvf := s.ovfAfter (x.events k sl)
    irqPend := s.irqPend ||| x.irq }

/-- An update of a slot that has just been updated. -/
theorem slots_setSlot_again {s u : State} {sl : SlotId} {x : Slot}
    (h : u.slots = (s.setSlot sl x).slots) (f : Slot → Slot) :
    (u.setSlot sl (f (u.slot sl))).slots = (s.setSlot sl (f x)).slots := by
  simp [State.slot, h]

/-- A NAK counted after its answer was decoded (R211). -/
theorem countNak_decoded (s : State) (sl : SlotId) (b : List Byte) (st : Byte) (p : List Byte)
    (c : Byte) : (s.decoded sl b st p c).countNak sl = { s.decoded sl b st p c with
      slots := (s.setSlot sl { s.slot sl with
        recv := (s.slot sl).recv + 1, nakc := (s.slot sl).nakc + 1 }).slots } :=
  congrArg (fun v => { s.decoded sl b st p c with slots := v })
    (slots_setSlot_again (u := s.decoded sl b st p c) rfl fun y => { y with nakc := y.nakc + 1 })

theorem or_noIrq (x : BitVec 6) : x ||| 0b000000 = x := BitVec.or_zero

section Outcome

variable {s : State} {k : Kind} {sl : SlotId} {o : Owner}

theorem transactOutcome_err {c : Code} (hc : c ≠ .encodingOverflow) :
    transactOutcome k sl o (.err c) s = transactAttempt k sl o
      { s with
        rstate := .attempting, lastFail := c, evtFifo := s.fifoAfter [eventWord c 0 sl k]
        logOvf := s.ovfAfter [eventWord c 0 sl k], irqPend := s.irqPend ||| 0b100000 } := by
  have hclass : classify s.params k (.err c) = .retry c := by
    cases c with
    | encodingOverflow => exact absurd rfl hc
    | _ => rfl
  simp only [transactOutcome, hclass, log_eq]
  rfl

theorem transactOutcome_naked {p : List Byte} : transactOutcome k sl o (.ok 0x15 p) s =
    transactAttempt k sl o
      { s.countNak sl with rstate := .naked, lastFail := .negativeAcknowledge } := by
  have hclass : classify s.params k (.ok 0x15 p) = .naked := by
    cases k <;> rfl
  simp only [transactOutcome, hclass]

theorem transactOutcome_unexpected {st : Byte} {p : List Byte} (hf : failingStatus s.params k st)
    (hst : st ≠ 0x15) : transactOutcome k sl o (.ok st p) s = transactAttempt k sl o
      { s with
        rstate := .attempting, lastFail := .unexpectedStatus
        evtFifo := s.fifoAfter [eventWord .unexpectedStatus 0 sl k]
        logOvf := s.ovfAfter [eventWord .unexpectedStatus 0 sl k]
        irqPend := s.irqPend ||| 0b100000 } := by
  have hno : successStatus s.params k st = false := by
    cases k with
    | sn =>
      obtain h | ⟨hsigned, hle⟩ := hf
      · exact absurd h hst
      · simp [successStatus, hsigned, BitVec.le_def, hle]
    | meas => exact decide_eq_false hf
  have hclass : classify s.params k (.ok st p) = .retry .unexpectedStatus := by
    have hnak : st ≠ Config.nak := hst
    simp only [classify, hno, if_neg hnak, Bool.false_eq_true, if_false]
  simp only [transactOutcome, hclass, log_eq]
  rfl

/-- A failure whose answer was not decoded counts nothing in the slot and is logged. -/
theorem afterFailed_undecoded {rest : List Move} {x : Failed} (hd : x.decoded = false)
    (hc : x.code ≠ .negativeAcknowledge) : s.afterFailed k sl rest x = { s with
      inputs := rest, defer := false, now := x.now, tpReq := none, rxDeadline := none
      rstate := .attempting, lastFail := x.code
      rxLen := x.rxLen, chk := x.chk, respStatus := x.respStatus, resultLen := x.resultLen
      mem := Memory.setAll s.mem [(0x2000, x.rx), (0x2100, x.result)]
      evtFifo := s.fifoAfter [eventWord x.code 0 sl k]
      logOvf := s.ovfAfter [eventWord x.code 0 sl k], irqPend := s.irqPend ||| 0b100000 } := by
  have hslot : x.slotAfter (s.slot sl) = s.slot sl := by
    simp [Failed.slotAfter, hd, hc]
  simp only [State.afterFailed, hslot, setSlot_self, Failed.rstate, Failed.irq, Failed.events, if_neg hc]

/-- A Query that ended in an error leads to the loop test of the failure with that code. -/
theorem afterQuery_err {c : Code} {u : State} {rest : List Move} {x : Failed}
    (hc : c ≠ .encodingOverflow)
    (hx : { u with
      rstate := .attempting, lastFail := c, evtFifo := u.fifoAfter [eventWord c 0 sl k]
      logOvf := u.ovfAfter [eventWord c 0 sl k], irqPend := u.irqPend ||| 0b100000 } =
        s.afterFailed k sl rest x) :
    afterQuery (.transact k sl o) (.err c) u =
      o.goesOn k sl (transactAttempt k sl o (s.afterFailed k sl rest x)) := by
  rw [afterQuery_transact, transactOutcome_err hc, hx]

/-- So does a decoded answer whose status is no success. -/
theorem afterQuery_status {st : Byte} {b p : List Byte} {c : Byte} {rest : List Move}
    (hf : failingStatus s.params k st) :
    afterQuery (.transact k sl o) (.ok st p) (State.decoded { s with
        inputs := rest, defer := false, tpReq := none, rxDeadline := none } sl b st p c) =
      o.goesOn k sl (transactAttempt k sl o (s.afterFailed k sl rest
        { s.failedAs (if st = 0x15 then .negativeAcknowledge else .unexpectedStatus) with
          rxLen := BitVec.ofNat 9 b.length, chk := ⟨c, b.getLastD 0⟩, respStatus := st
          resultLen := BitVec.ofNat 8 p.length, decoded := true, rx := b, result := p })) := by
  rw [afterQuery_transact]
  by_cases hst : st = 0x15
  · subst hst
    rw [transactOutcome_naked, countNak_decoded]
    refine congrArg (fun u => o.goesOn k sl (transactAttempt k sl o u)) ?_
    simp only [State.afterFailed, State.decoded, Failed.slotAfter, Failed.rstate, Failed.irq,
      Failed.events, State.failedAs, if_true, fifoAfter_nil, ovfAfter_nil, or_noIrq]
    rfl
  · rw [transactOutcome_unexpected (s := State.decoded { s with
      inputs := rest, defer := false, tpReq := none, rxDeadline := none } sl b st p c) hf hst]
    refine congrArg (fun u => o.goesOn k sl (transactAttempt k sl o u)) ?_
    simp only [State.afterFailed, State.decoded, Failed.slotAfter, Failed.rstate, Failed.irq,
      Failed.events, State.failedAs, if_neg hst]
    rfl

/-- Whichever way an attempt fails, its step tests the loop again from one and the same state. -/
theorem step_attempt_fails {rest : List Move} {x : Failed} {t : State}
    (h : s.AttemptFails k sl o rest x)
    (ht : o.goesOn k sl (transactAttempt k sl o (s.afterFailed k sl rest x)) = t)
    (hs : t.cont ≠ .spin) : step s = .next t := by
  cases h with
  | send tag f h =>
    refine step_answer_runs h rfl rfl ((afterQuery_err (by decide) ?_).trans ht) hs
    rw [afterFailed_undecoded (x := s.failedAs .sendFailure) rfl nofun, ← h.rxDeadline]
    rfl
  | deadline tag d h hd =>
    refine step_receive_deadline_runs h hd rfl ((afterQuery_err (by decide) ?_).trans ht) hs
    exact Eq.symm (afterFailed_undecoded (by rfl) (by exact nofun))
  | timeout tag d h hd =>
    refine step_receive_answer_runs h hd (.inl rfl) rfl ((afterQuery_err (by decide) ?_).trans ht) hs
    exact Eq.symm (afterFailed_undecoded (by rfl) (by exact nofun))
  | empty tag d h hd =>
    refine step_receive_answer_runs h hd (.inr ⟨[], rfl, Nat.zero_le _⟩) rfl
      ((afterQuery_err (by decide) ?_).trans ht) hs
    exact Eq.symm (afterFailed_undecoded (by rfl) (by exact nofun))
  | mismatch tag d b c h hd hb hc =>
    refine step_receive_answer_runs h hd (.inr ⟨b, rfl, hb⟩) rfl
      (((runFrom_queryRecv (queryGot_mismatch hc)).trans (afterQuery_err (by decide) ?_)).trans ht) hs
    exact Eq.symm (afterFailed_undecoded (by rfl) (by exact nofun))
  | status tag d b st p c h hd hb hc hf =>
    exact step_receive_answer_runs h hd (.inr ⟨b, rfl, hb⟩) rfl
      (((runFrom_queryRecv (queryGot_ok hc)).trans (afterQuery_status hf)).trans ht) hs

end Outcome

end Sys2Proof.Machine
end

section
/-! PROOFS. What a failed attempt of a Transact leads to (R202, R211, R212, R215, R216, R239): the next attempt,
or the end of the Transact with no reading written. -/

namespace Sys2Proof.Machine

section Failure

variable {s : State} {k : Kind} {sl : SlotId} {o : Owner} {rest : List Move} {x : Failed}

/-! ### The buffers and the slot of a failed attempt -/

/-- What a failed attempt stored fits RXBUF and RESULT. -/
theorem failed_lengths (h : s.AttemptFails k sl o rest x) (hwf : s.params.wf = true) :
    x.rx.length ≤ 256 ∧ x.result.length ≤ 256 := by
  have hcap : s.params.rxCap ≤ 256 := by
    simp only [Params.wf, decide_eq_true_eq] at hwf
    omega
  cases h with
  | send tag f h => exact ⟨Nat.zero_le _, Nat.zero_le _⟩
  | deadline tag d h hd => exact ⟨Nat.zero_le _, Nat.zero_le _⟩
  | timeout tag d h hd => exact ⟨Nat.zero_le _, Nat.zero_le _⟩
  | empty tag d h hd => exact ⟨Nat.zero_le _, Nat.zero_le _⟩
  | mismatch tag d b c h hd hb hc => exact ⟨hb.trans hcap, Nat.zero_le _⟩
  | status tag d b st p c h hd hb hc hf => exact answer_lengths hc hb hcap

theorem afterFailed_cmdLen : (s.afterFailed k sl rest x).cmdLen k = s.cmdLen k := by
  cases k <;> rfl

/-- A payload whose frame fits TXBUF lies in CMDBUF0 or CMDBUF1, clear of RXBUF, RESULT, SERIAL and
VALUE (R49). -/
theorem payload_congr_outside {t : State} {ws : List (Nat × List Byte)}
    (hm : t.mem = Memory.setAll s.mem ws) (he : t.epoch = s.epoch) (hl : t.cmdLen k = s.cmdLen k)
    (hlen : (s.cmdLen k).toNat ≤ 4096)
    (hws : ∀ w ∈ ws, w.1 + w.2.length ≤ 0x3000 ∨ 0x8000 ≤ w.1) : t.payload k = s.payload k := by
  rw [State.payload, State.payload, hl]
  refine bytesAt_setAll_out hm he fun w hw => ?_
  have h := hws w hw
  unfold Outside
  cases k <;> simp only [cmdBase] <;> omega

/-- The frame of the slot's next attempt is the frame of the attempt that failed. -/
theorem afterFailed_payload (h : s.AttemptFails k sl o rest x) (hwf : s.params.wf = true)
    (hfit : (s.cmdLen k).toNat + 3 ≤ s.params.txCap) :
    (s.afterFailed k sl rest x).payload k = s.payload k := by
  obtain ⟨hrx, hres⟩ := failed_lengths h hwf
  simp only [Params.wf, decide_eq_true_eq] at hwf
  refine payload_congr_outside (ws := [(0x2000, x.rx), (0x2100, x.result)]) rfl rfl
    afterFailed_cmdLen (by omega) ?_
  simp only [List.forall_mem_cons, List.not_mem_nil, false_imp_iff, implies_true, and_true]
  omega

/-- The state in which the next attempt's Query begins. -/
def State.nextAttempt (s : State) (k : Kind) (sl : SlotId) (rest : List Move) (x : Failed) : State :=
  { s.afterFailed k sl rest x with attempts := s.attempts + 1 }

theorem nextAttempt_cmdLen : (s.nextAttempt k sl rest x).cmdLen k = s.cmdLen k := by
  cases k <;> rfl

theorem nextAttempt_payload (h : s.AttemptFails k sl o rest x) (hwf : s.params.wf = true)
    (hfit : (s.cmdLen k).toNat + 3 ≤ s.params.txCap) :
    (s.nextAttempt k sl rest x).payload k = s.payload k :=
  (payload_congr (s := s.afterFailed k sl rest x) k rfl rfl (by cases k <;> rfl)).trans
    (afterFailed_payload h hwf hfit)

theorem nextAttempt_frameOf (h : s.AttemptFails k sl o rest x) (hwf : s.params.wf = true)
    (hfit : (s.cmdLen k).toNat + 3 ≤ s.params.txCap) :
    (s.nextAttempt k sl rest x).frameOf (.transact k sl o) =
      requestFrame (s.slot sl).addr (s.payload k) := by
  have hslot : (s.nextAttempt k sl rest x).slot sl = x.slotAfter (s.slot sl) :=
    slot_setSlot_same s sl _
  have haddr : (x.slotAfter (s.slot sl)).addr = (s.slot sl).addr := rfl
  simp only [State.frameOf, Task.slot, Task.kind, hslot, haddr, nextAttempt_payload h hwf hfit]

/-! ### The loop test (R202) -/

/-- With an attempt left, the next attempt's frame is sent. -/
theorem transactAttempt_sends (hlt : s.attempts < s.maxRetries)
    (hfit : (s.cmdLen k).toNat + 3 ≤ s.params.txCap) : transactAttempt k sl o s =
      .suspended (State.sendsFrame { s with attempts := s.attempts + 1 } (.transact k sl o)) := by
  have hfit' : (State.cmdLen { s with attempts := s.attempts + 1 } k).toNat + 3 ≤ s.params.txCap := by
    cases k <;> exact hfit
  rw [transactAttempt, if_pos hlt, queryBegin_sends _ hfit']

/-- With none left, the Transact ends EXHAUSTED. -/
theorem transactAttempt_exhausts (hge : ¬ s.attempts < s.maxRetries) :
    transactAttempt k sl o s = .ended (transactExhaust k sl s) (.exhausted s.lastFail) :=
  if_neg hge

end Failure

/-- Settles O25: whichever way the attempt failed, the loop goes on from one and the same state, whose next
attempt sends the slot's frame. -/
theorem failedAttemptRetries : Obligations.FailedAttemptRetries := by
  unfold Obligations.FailedAttemptRetries
  intro s k sl o rest x h hwf hlt hfit
  have htx : s.params.txCap ≤ 4096 := by
    simp only [Params.wf, decide_eq_true_eq] at hwf
    omega
  obtain ⟨hrx, hres⟩ := failed_lengths h hwf
  have hframe := nextAttempt_frameOf h hwf hfit
  have hflen : (requestFrame (s.slot sl).addr (s.payload k)).length = (s.cmdLen k).toNat + 3 := by
    rw [length_requestFrame, length_payload]
  have hsend : transactAttempt k sl o (s.afterFailed k sl rest x) =
      .suspended ((s.nextAttempt k sl rest x).sendsFrame (.transact k sl o)) :=
    transactAttempt_sends (s := s.afterFailed k sl rest x) (BitVec.lt_def.2 hlt)
      (by rw [afterFailed_cmdLen]; exact hfit)
  have hmem : ((s.nextAttempt k sl rest x).sendsFrame (.transact k sl o)).mem = Memory.setAll s.mem
      [(0x2000, x.rx), (0x2100, x.result), (0x1000, requestFrame (s.slot sl).addr (s.payload k))] := by
    rw [sendsFrame_mem, hframe]
    rfl
  have hdis : [(0x2000, x.rx), (0x2100, x.result),
      (0x1000, requestFrame (s.slot sl).addr (s.payload k))].Pairwise
        fun v w => Outside v.1 v.2.length w := by
    simp [Outside, hflen]
    omega
  refine ⟨_, step_attempt_fails h ((congrArg _ hsend).trans (goesOn_suspended o k sl _)) nofun, ?_,
    slot_setSlot_same s sl _, fun sl' hne => slot_setSlot_ne s sl sl' _ (Ne.symm hne), ?_,
    bytesAt_setAll_in hmem rfl hdis (w := (0x2000, x.rx)) (by simp),
    bytesAt_setAll_in hmem rfl hdis (w := (0x2100, x.result)) (by simp), fun a h1 h2 h3 => ?_⟩
  · have heq := sendsFrame_eq (s.nextAttempt k sl rest x) (.transact k sl o)
    rw [hframe] at heq
    simp only [Task.kind, nextAttempt_cmdLen, nextAttempt_payload h hwf hfit] at heq
    exact congrArg (fun v : State => { v with mem := s.mem, slots := s.slots }) heq
  · rw [← hflen]
    exact bytesAt_setAll_in hmem rfl hdis
      (w := (0x1000, requestFrame (s.slot sl).addr (s.payload k))) (by simp)
  · refine byteAt_setAll_out hmem rfl ?_
    simpa [Outside, hflen, Nat.succ_le_iff] using ⟨h2, h3, h1⟩

/-! ### A Transact that ends EXHAUSTED (R202, R212, R216) -/

section Exhausted

variable {s : State} {k : Kind} {sl : SlotId} {o : Owner} {rest : List Move} {x : Failed}

theorem Failed.irq_or_log (x : Failed) : x.irq ||| 0b100000 = 0b100000 := by
  unfold Failed.irq
  split <;> rfl

/-- The state in which a Transact ends whose last attempt failed. -/
def State.exhausted (s : State) (k : Kind) (sl : SlotId) (rest : List Move) (x : Failed) : State :=
  { s.afterFailed k sl rest x with
    rstate := .exhausted
    slots := (s.setSlot sl ((x.slotAfter (s.slot sl)).withRetry k s.attempts .exhausted)).slots
    evtFifo := s.fifoAfter (x.events k sl ++ [eventWord .retriesExhausted x.code.byte sl k])
    logOvf := s.ovfAfter (x.events k sl ++ [eventWord .retriesExhausted x.code.byte sl k])
    irqPend := s.irqPend ||| 0b100000 }

theorem transactExhaust_afterFailed :
    transactExhaust k sl (s.afterFailed k sl rest x) = s.exhausted k sl rest x := by
  have hslots := slots_setSlot_again (u := s.afterFailed k sl rest x) rfl
    fun y => y.withRetry k s.attempts .exhausted
  have hfifo := fifoAfter_append (s := s) (t := s.afterFailed k sl rest x) (ws := x.events k sl)
    (eventWord .retriesExhausted x.code.byte sl k) rfl rfl
  have hovf := ovfAfter_append (s := s) (t := s.afterFailed k sl rest x) (ws := x.events k sl)
    (eventWord .retriesExhausted x.code.byte sl k) rfl rfl rfl
  have hirq : (s.afterFailed k sl rest x).irqPend ||| 0b100000 = s.irqPend ||| 0b100000 := by
    show s.irqPend ||| x.irq ||| 0b100000 = _
    rw [BitVec.or_assoc, x.irq_or_log]
  rw [transactExhaust_eq, hirq]
  change { s.afterFailed k sl rest x with
    rstate := .exhausted
    slots := ((s.afterFailed k sl rest x).setSlot sl
      (((s.afterFailed k sl rest x).slot sl).withRetry k s.attempts .exhausted)).slots
    evtFifo := (s.afterFailed k sl rest x).fifoAfter [eventWord .retriesExhausted x.code.byte sl k]
    logOvf := (s.afterFailed k sl rest x).ovfAfter [eventWord .retriesExhausted x.code.byte sl k]
    irqPend := s.irqPend ||| 0b100000 } = _
  rw [hslots, hfifo, hovf]
  rfl

/-- The step of the last attempt's failure. -/
theorem step_exhausts {t : State} (h : s.AttemptFails k sl o rest x)
    (hge : s.maxRetries.toNat ≤ s.attempts.toNat)
    (ht : o.goesOn k sl (.ended (s.exhausted k sl rest x) (.exhausted x.code)) = t)
    (hs : t.cont ≠ .spin) : step s = .next t := by
  refine step_attempt_fails h ?_ hs
  rw [transactAttempt_exhausts (s := s.afterFailed k sl rest x)
    (fun hlt => absurd (BitVec.lt_def.1 hlt) (Nat.not_lt.2 hge)), transactExhaust_afterFailed]
  exact ht

theorem exhausted_slot : (s.exhausted k sl rest x).slot sl =
    (x.slotAfter (s.slot sl)).withRetry k s.attempts .exhausted :=
  slot_setSlot_same s sl _

/-- A failed attempt and the end of its Transact write no reading (R215). -/
theorem exhausted_readingOf : (s.exhausted k sl rest x).readingOf sl = s.readingOf sl := by
  rw [State.readingOf, State.readingOf, exhausted_slot]
  cases k <;> rfl

end Exhausted

/-- Settles O26: the loop test finds no attempt left, and the host's command completes. -/
theorem lastFailureExhausts : Obligations.LastFailureExhausts := by
  unfold Obligations.LastFailureExhausts
  intro s k sl rest x h hwf hge
  refine ⟨_, step_exhausts h hge (complete_slot_error _ (by decide) _ _ _) nofun, ?_,
    slot_setSlot_same s sl _, fun sl' hne => slot_setSlot_ne s sl sl' _ (Ne.symm hne),
    exhausted_readingOf (rest := rest) (x := x), storesAnswer_of rfl rfl (failed_lengths h hwf).1⟩
  simp only [State.exhausted, BitVec.or_assoc]
  rfl

/-! ### The scheduler's pacing after a Transact (R239) -/

theorem pace_sleeps {s : State} (h : s.params.paceMs ≠ 0) : s.pace = some { s with
    cont := .schedPace, sleepUntil := some (s.now + s.params.paceMs.setWidth 64) } :=
  sleep_param _ _ h

theorem schedPaceSlot_sleeps {s : State} (h : s.params.paceMs ≠ 0) : schedPaceSlot s = { s with
    cont := .schedPace, sleepUntil := some (s.now + s.params.paceMs.setWidth 64) } := by
  rw [schedPaceSlot, pace_sleeps h]
  rfl

/-- A Transact of the scheduler that ends without success leads to the pacing (R238). -/
theorem schedTransacted_failed {k : Kind} {sl : SlotId} {r : TResult} {s : State} (h : r ≠ .ok) :
    schedTransacted k sl r s = schedPaceSlot s := by
  cases r with
  | ok => exact absurd rfl h
  | overflow => cases k <;> rfl
  | exhausted c => cases k <;> rfl

/-- Settles O37: the loop test finds no attempt left, and the slot's pacing starts. -/
theorem scanFailureStartsPacing : Obligations.ScanFailureStartsPacing := by
  unfold Obligations.ScanFailureStartsPacing
  intro s k sl rest x h hwf hge hpace
  have hgo : Owner.scan.goesOn k sl (.ended (s.exhausted k sl rest x) (.exhausted x.code)) =
      { s.exhausted k sl rest x with
        cont := .schedPace, sleepUntil := some (x.now + s.params.paceMs.setWidth 64) } :=
    (schedTransacted_failed (r := .exhausted x.code) nofun).trans
      (schedPaceSlot_sleeps (s := s.exhausted k sl rest x) hpace)
  have hslot := exhausted_slot (s := s) (k := k) (sl := sl) (rest := rest) (x := x)
  refine ⟨_, step_exhausts h hge hgo nofun, rfl, hslot, ?_,
    fun sl' hne => slot_setSlot_ne s sl sl' _ (Ne.symm hne), exhausted_readingOf (rest := rest) (x := x),
    storesAnswer_of rfl rfl (failed_lengths h hwf).1⟩
  rintro rfl
  have hatt : ((s.exhausted .sn sl rest x).slot sl).measAtt = (s.slot sl).measAtt := by
    rw [hslot]
    rfl
  have hstate : ((s.exhausted .sn sl rest x).slot sl).measRState = (s.slot sl).measRState := by
    rw [hslot]
    rfl
  exact ⟨hatt, hstate⟩

/-! ### What a Transact that ends without success leaves (R215) -/

/-- No reading of a slot and no byte of a buffer changes. -/
def State.KeepsReadings (s t : State) : Prop :=
  (∀ sl, t.readingOf sl = s.readingOf sl) ∧ t.mem = s.mem ∧ t.epoch = s.epoch

section Readings

variable {s t u : State}

theorem State.KeepsReadings.trans (h : s.KeepsReadings u) (hu : u.KeepsReadings t) :
    s.KeepsReadings t := by
  obtain ⟨hr, hm, he⟩ := h
  obtain ⟨hr', hm', he'⟩ := hu
  exact ⟨fun sl => (hr' sl).trans (hr sl), hm'.trans hm, he'.trans he⟩

/-- What is neither in a slot nor in FRESH is no reading. -/
theorem keepsReadings_of (hs : t.slots = s.slots) (hf : t.fresh = s.fresh) (hm : t.mem = s.mem)
    (he : t.epoch = s.epoch) : s.KeepsReadings t :=
  ⟨fun sl => by rw [State.readingOf, State.readingOf, slot_congr s t hs, hf], hm, he⟩

/-- A slot updated elsewhere than in its reading. -/
theorem keepsReadings_setSlot (sl : SlotId) {y : Slot} (hn : y.snLen = (s.slot sl).snLen)
    (hv : y.valLen = (s.slot sl).valLen) (ht : y.ts = (s.slot sl).ts) :
    s.KeepsReadings (s.setSlot sl y) := by
  refine ⟨fun sl' => ?_, rfl, rfl⟩
  by_cases h : sl = sl'
  · subst h
    rw [State.readingOf, State.readingOf, slot_setSlot_same, hn, hv, ht]
    rfl
  · rw [State.readingOf, State.readingOf, slot_setSlot_ne s _ _ _ h]
    rfl

theorem keepsReadings_fatal (k : Kind) (sl : SlotId) : s.KeepsReadings (transactFatal k sl s) := by
  rw [transactFatal_eq]
  refine (keepsReadings_setSlot (s := s) sl (y := (s.slot sl).withRetry k s.attempts .failed) ?_ ?_ ?_).trans
    (keepsReadings_of rfl rfl rfl rfl) <;> cases k <;> rfl

theorem keepsReadings_exhaust (k : Kind) (sl : SlotId) :
    s.KeepsReadings (transactExhaust k sl s) := by
  rw [transactExhaust_eq]
  refine (keepsReadings_setSlot (s := s) sl (y := (s.slot sl).withRetry k s.attempts .exhausted) ?_ ?_ ?_).trans
    (keepsReadings_of rfl rfl rfl rfl) <;> cases k <;> rfl

theorem keepsReadings_attempt {k : Kind} {sl : SlotId} {o : Owner} {r : TResult}
    (h : transactAttempt k sl o s = .ended t r) : s.KeepsReadings t := by
  rcases transactAttempt_cases s k sl o with ⟨-, u, -, he⟩ | ⟨-, u, hq, he⟩ | ⟨-, he⟩
  · rw [he] at h
    cases h
  · rw [he] at h
    obtain ⟨rfl, -⟩ := TProgress.ended.inj h
    refine State.KeepsReadings.trans ?_ (keepsReadings_fatal k sl)
    rcases queryBegin_cases { s with attempts := s.attempts + 1 } (.transact k sl o) with
      ⟨f, -, hb⟩ | ⟨-, hb⟩
    · rw [hb] at hq
      cases hq
    · rw [hb] at hq
      cases hq
      exact keepsReadings_of rfl rfl rfl rfl
  · rw [he] at h
    obtain ⟨rfl, -⟩ := TProgress.ended.inj h
    exact keepsReadings_exhaust k sl

end Readings

/-- Settles O27: neither the loop test nor FATAL nor the end of the loop touches a reading, and the success
that does is excluded. -/
theorem failedTransactKeepsReadings : Obligations.FailedTransactKeepsReadings := by
  unfold Obligations.FailedTransactKeepsReadings
  intro s t k sl o r x h hx
  have hkeep : s.KeepsReadings t := by
    rcases transactOutcome_cases s k sl o r with ⟨-, he⟩ | ⟨p, -, he⟩ | ⟨-, he⟩ | ⟨c, -, he⟩
    · rw [he] at h
      obtain ⟨rfl, -⟩ := TProgress.ended.inj h
      exact keepsReadings_fatal k sl
    · rw [he] at h
      exact absurd (TProgress.ended.inj h).2.symm hx
    · have hnak : s.KeepsReadings (s.countNak sl) := keepsReadings_setSlot sl rfl rfl rfl
      have hend := keepsReadings_attempt (he.symm.trans h)
      exact hnak.trans (State.KeepsReadings.trans (keepsReadings_of rfl rfl rfl rfl) hend)
    · have hend := keepsReadings_attempt (he.symm.trans h)
      exact State.KeepsReadings.trans (keepsReadings_of rfl rfl rfl rfl) hend
  obtain ⟨hr, hm, he⟩ := hkeep
  exact ⟨hr, fun a _ => byteAt_congr s t hm he a⟩

end Sys2Proof.Machine
end

section
/-! PROOFS. An attempt of a Transact that succeeds (R202, R210, R213, R214): the reading stored, and what the
host's command (R200, R201) and the scheduler (R238, R239) make of it. -/

namespace Sys2Proof.Machine

/-! ### The state a success leaves (R213, R214) -/

/-- A slot with a reading of `n` bytes stored at NOW = `now` (R213, R214). -/
def Slot.withReading (y : Slot) (k : Kind) (n : Byte) (now : Time) : Slot :=
  match k with
  | .sn => { y with snLen := n }
  | .meas => { y with valLen := n, ts := now }

/-- The buffer of a slot's reading: SERIAL[s] or VALUE[s] (R49). -/
def readingBase (k : Kind) (sl : SlotId) : Nat :=
  (match k with | .sn => 0x8000 | .meas => 0xA000) + 256 * sl.toNat

/-- FRESH after a success (R214). -/
def State.freshAfter (s : State) (k : Kind) (sl : SlotId) : Word :=
  match k with
  | .sn => s.fresh
  | .meas => s.fresh ||| 1#32 <<< sl.toNat

/-- A slot whose Transact succeeded. -/
def State.slotSucceeded (s : State) (k : Kind) (sl : SlotId) (p : List Byte) : Slot :=
  ({ s.slot sl with recv := (s.slot sl).recv + 1 }.withReading k (BitVec.ofNat 8 p.length)
    s.now).withRetry k s.attempts .succeeded

/-- The state in which a Transact ends whose attempt succeeded. -/
def State.succeeded (s : State) (k : Kind) (sl : SlotId) (rest : List Move) (b : List Byte) (st : Byte)
    (p : List Byte) (c : Byte) : State :=
  { s with
    inputs := rest, defer := false, tpReq := none, rxDeadline := none
    rxLen := BitVec.ofNat 9 b.length, chk := ⟨c, b.getLastD 0⟩, respStatus := st
    resultLen := BitVec.ofNat 8 p.length, rstate := .succeeded
    mem := Memory.setAll s.mem [(0x2000, b), (0x2100, p), (readingBase k sl, p)]
    slots := (s.setSlot sl (s.slotSucceeded k sl p)).slots, fresh := s.freshAfter k sl }

section Success

variable {s : State} {k : Kind} {sl : SlotId} {o : Owner} {st : Byte} {b p : List Byte} {c : Byte}
  {rest : List Move}

theorem store_eq (s : State) (k : Kind) (sl : SlotId) (p : List Byte) : s.store k sl p = { s with
    mem := Memory.setAll s.mem [(readingBase k sl, p)]
    slots := (s.setSlot sl ((s.slot sl).withReading k (BitVec.ofNat 8 p.length) s.now)).slots
    fresh := s.freshAfter k sl } := by
  cases k <;> rfl

theorem setSlot_eq {u : State} {y : Slot} {v : Vector Slot 32} (h : (u.setSlot sl y).slots = v) :
    u.setSlot sl y = { u with slots := v } := by
  subst h
  rfl

/-- A slot updated, another field written, and the slot's retry fields kept (R202). -/
theorem keepRetry_after {u : State} {x : Slot} (h : u.slots = (s.setSlot sl x).slots) :
    u.keepRetry k sl =
      { u with slots := (s.setSlot sl (x.withRetry k u.attempts u.rstate)).slots } := by
  rw [keepRetry_eq]
  exact setSlot_eq (slots_setSlot_again h fun y => y.withRetry k u.attempts u.rstate)

theorem transactOutcome_stores {u : State} (h : successStatus u.params k st = true) :
    transactOutcome k sl o (.ok st p) u = .ended (State.keepRetry { u with
      rstate := .succeeded, mem := Memory.setAll u.mem [(readingBase k sl, p)]
      slots := (u.setSlot sl ((u.slot sl).withReading k (BitVec.ofNat 8 p.length) u.now)).slots
      fresh := u.freshAfter k sl } k sl) .ok := by
  have hclass : classify u.params k (.ok st p) = .success p := if_pos h
  simp only [transactOutcome, hclass, store_eq]

theorem transactOutcome_success (h : successStatus s.params k st = true) :
    transactOutcome k sl o (.ok st p)
      (State.decoded { s with inputs := rest, defer := false, tpReq := none, rxDeadline := none }
        sl b st p c) = .ended (s.succeeded k sl rest b st p c) .ok := by
  have hslots := slots_setSlot_again (s := s) (u := State.decoded { s with
      inputs := rest, defer := false, tpReq := none, rxDeadline := none } sl b st p c) rfl
    fun y => y.withReading k (BitVec.ofNat 8 p.length) s.now
  rw [transactOutcome_stores (by exact h), keepRetry_after (by exact hslots)]
  cases k <;> rfl

/-- The step of the answer with which an attempt succeeds. -/
theorem step_succeeds {tag : Nat} {d : Time} {t : State}
    (h : s.Receives (.queryRecv (.transact k sl o)) tag d (answerMove tag (.bytes b)) rest)
    (hd : s.now < d) (hb : b.length ≤ s.params.rxCap) (hc : decodeFrame b = .ok st p c)
    (hst : successStatus s.params k st = true)
    (ht : o.goesOn k sl (.ended (s.succeeded k sl rest b st p c) .ok) = t) (hs : t.cont ≠ .spin) :
    step s = .next t := by
  refine step_receive_answer_runs h hd (.inr ⟨b, rfl, hb⟩) rfl
    ((runFrom_queryRecv (queryGot_ok hc)).trans ?_) hs
  rw [afterQuery_transact]
  exact (congrArg _ (transactOutcome_success hst)).trans ht

theorem succeeded_slot : (s.succeeded k sl rest b st p c).slot sl = s.slotSucceeded k sl p :=
  slot_setSlot_same s sl _

theorem getLsbD_freshAfter (j : Nat) : (s.freshAfter .meas sl).getLsbD j =
    (s.fresh.getLsbD j || decide (j = sl.toNat)) := by
  have hlt : sl.toNat < 32 := sl.isLt
  rw [State.freshAfter, BitVec.getLsbD_or, BitVec.getLsbD_shiftLeft, BitVec.getLsbD_one]
  congr 1
  by_cases hj : j = sl.toNat
  · simp [hj, hlt]
  · simp [hj]
    omega

/-- Where a success stores: the answer, its payload, and the reading lie apart (R49). -/
theorem success_apart (k : Kind) (sl : SlotId) (hb : b.length ≤ 256) (hp : p.length ≤ 256) :
    [(0x2000, b), (0x2100, p), (readingBase k sl, p)].Pairwise
      fun v w => Outside v.1 v.2.length w := by
  have hbase : 0x8000 ≤ readingBase k sl := by
    unfold readingBase
    cases k <;> simp only <;> omega
  simp only [List.pairwise_cons, List.forall_mem_cons, List.not_mem_nil, false_imp_iff, implies_true,
    List.Pairwise.nil, and_true, Outside]
  omega

theorem successStatus_sn (hst : st ≠ 0x15) (hsigned : s.params.snStatusSigned = true → st.toNat < 0x80) :
    successStatus s.params .sn st = true := by
  have hlow : (!s.params.snStatusSigned || decide (st < 0x80)) = true := by
    cases hs : s.params.snStatusSigned with
    | false => rfl
    | true => exact decide_eq_true (BitVec.lt_def.2 (hsigned hs))
  exact Bool.and_eq_true_iff.2 ⟨decide_eq_true hst, hlow⟩

theorem successStatus_meas (hst : st = 0x06) : successStatus s.params .meas st = true :=
  decide_eq_true hst

end Success

/-- Settles O24: the outcome is a success, the reading is stored, and the host's command completes. -/
theorem transactSuccessStoresReading : Obligations.TransactSuccessStoresReading := by
  unfold Obligations.TransactSuccessStoresReading
  intro s k sl tag d b st p c rest h hd hb hwf hc hst
  have hcap : s.params.rxCap ≤ 256 := by
    simp only [Params.wf, decide_eq_true_eq] at hwf
    omega
  obtain ⟨hlb, hlp⟩ := answer_lengths hc hb hcap
  have hok : successStatus s.params k st = true := by
    cases k with
    | sn => exact successStatus_sn hst.1 hst.2
    | meas => exact successStatus_meas hst
  have hend := complete_slot_none (s.succeeded k sl rest b st p c) sl k
  have hapart := success_apart k sl hlb hlp
  have hslot := succeeded_slot (s := s) (k := k) (sl := sl) (st := st) (b := b) (p := p) (c := c) (rest := rest)
  have hread (w) (hw : w ∈ [(0x2000, b), (0x2100, p), (readingBase k sl, p)]) :
      (s.succeeded k sl rest b st p c).bytesAt w.1 w.2.length = w.2 :=
    bytesAt_setAll_in (s := s) (t := s.succeeded k sl rest b st p c) rfl rfl hapart hw
  refine ⟨_, step_succeeds h hd hb hc hok hend nofun, by cases k <;> rfl, ?_,
    fun sl' hne => slot_setSlot_ne s sl sl' _ (Ne.symm hne), hread (0x2000, b) (by simp),
    hread (0x2100, p) (by simp), fun a h1 h2 h3 => ?_⟩
  · cases k with
    | sn => exact ⟨hslot, rfl, hread (readingBase .sn sl, p) (by simp)⟩
    | meas => exact ⟨hslot, getLsbD_freshAfter, hread (readingBase .meas sl, p) (by simp)⟩
  · refine byteAt_setAll_out (s := s) (t := s.succeeded k sl rest b st p c) rfl rfl ?_
    simpa [Outside, Nat.succ_le_iff] using ⟨h1, h2, h3 (readingBase k sl) rfl⟩

/-! ### A success of the scheduler's Transact (R238, R239) -/

theorem schedTransacted_meas_ok (sl : SlotId) (s : State) :
    schedTransacted .meas sl .ok s = schedPaceSlot s := rfl

/-- A serial number read leads to the slot's measurement. -/
theorem schedTransacted_sn_sends {s : State} (sl : SlotId) (hr : s.maxRetries ≠ 0)
    (hfit : s.cmdLen1.toNat + 3 ≤ s.params.txCap) :
    schedTransacted .sn sl .ok s = s.firstSend .meas sl .scan := by
  simp only [schedTransacted, transactBegin_sends (k := .meas) sl .scan hr hfit]

/-- Or, where the measurement's frame does not fit, to the pacing. -/
theorem schedTransacted_sn_overflows {s : State} (sl : SlotId) (hr : s.maxRetries ≠ 0)
    (hover : s.params.txCap < s.cmdLen1.toNat + 3) (hpace : s.params.paceMs ≠ 0) :
    schedTransacted .sn sl .ok s = { s with
      cont := .schedPace, sleepUntil := some (s.now + s.params.paceMs.setWidth 64)
      curSlot := sl, attempts := 1, rstate := .failed, lastFail := .none, txValid := false, txLen := 0
      slots := (s.setSlot sl ((s.slot sl).withRetry .meas 1 .failed)).slots
      evtFifo := s.fifoAfter [eventWord .encodingOverflow 0 sl .meas]
      logOvf := s.ovfAfter [eventWord .encodingOverflow 0 sl .meas]
      irqPend := s.irqPend ||| 0b100000 } := by
  simp only [schedTransacted, transactBegin_overflows (k := .meas) sl .scan hr hover]
  exact schedPaceSlot_sleeps hpace

section ScanSuccess

variable {s : State} {sl : SlotId} {st : Byte} {b p : List Byte} {c : Byte} {rest : List Move}

/-- The frame of the measurement that follows a serial number is the slot's request frame. -/
theorem succeeded_frame (hb : b.length ≤ 256) (hp : p.length ≤ 256)
    (hlen : s.cmdLen1.toNat ≤ 4096) :
    (s.succeeded .sn sl rest b st p c).payload .meas = s.payload .meas ∧
      ((s.succeeded .sn sl rest b st p c).slot sl).addr = (s.slot sl).addr := by
  refine ⟨payload_congr_outside (ws := [(0x2000, b), (0x2100, p), (readingBase .sn sl, p)]) rfl rfl
    rfl hlen ?_, by rw [succeeded_slot]; rfl⟩
  have hbase : 0x8000 ≤ readingBase .sn sl := by
    simp only [readingBase]
    omega
  simp only [List.forall_mem_cons, List.not_mem_nil, false_imp_iff, implies_true, and_true]
  omega

/-- With the measurement's frame in TXBUF the bytes a success stored still lie apart. -/
theorem success_frame_apart (hb : b.length ≤ 256) (hp : p.length ≤ 256) {f : List Byte}
    (hf : f.length ≤ 4096) :
    [(0x2000, b), (0x2100, p), (readingBase .sn sl, p), (0x1000, f)].Pairwise
      fun v w => Outside v.1 v.2.length w := by
  have hbase : 0x8000 ≤ readingBase .sn sl := by
    simp only [readingBase]
    omega
  simp only [List.pairwise_cons, List.forall_mem_cons, List.not_mem_nil, false_imp_iff, implies_true,
    List.Pairwise.nil, and_true, Outside]
  omega

end ScanSuccess

/-- Settles O30: the outcome is a success, and the scheduler goes on with the measurement or the pacing. -/
theorem scanSuccessGoesOn : Obligations.ScanSuccessGoesOn := by
  unfold Obligations.ScanSuccessGoesOn
  intro s sl tag d b st p c rest hd hb hwf hc
  have hcaps : s.params.rxCap ≤ 256 ∧ s.params.txCap ≤ 4096 := by
    simp only [Params.wf, decide_eq_true_eq] at hwf
    omega
  obtain ⟨hcap, htx⟩ := hcaps
  obtain ⟨hlb, hlp⟩ := answer_lengths hc hb hcap
  refine ⟨fun h hst hsigned hr => ⟨fun hfit => ?measure, fun hover hpace => ?overflow⟩,
    fun h hst hpace => ?pace⟩
  case measure =>
    obtain ⟨hpay, haddr⟩ := succeeded_frame (s := s) (sl := sl) (st := st) (c := c) (rest := rest) hlb
      hlp (by omega)
    set u := s.succeeded .sn sl rest b st p c with hu
    have hflen : (requestFrame (s.slot sl).addr (s.payload .meas)).length = s.cmdLen1.toNat + 3 := by
      rw [length_requestFrame, length_payload]
      rfl
    have hmem : (u.firstSend .meas sl .scan).mem = Memory.setAll s.mem
        [(0x2000, b), (0x2100, p), (readingBase .sn sl, p),
          (0x1000, requestFrame (s.slot sl).addr (s.payload .meas))] := by
      rw [firstSend_mem, hpay, haddr]
      rfl
    have hapart := success_frame_apart (sl := sl) (b := b) (p := p)
      (f := requestFrame (s.slot sl).addr (s.payload .meas)) hlb hlp (by omega)
    have hread (w) (hw : w ∈ _) := bytesAt_setAll_in hmem rfl hapart (w := w) hw
    refine ⟨_, step_succeeds h hd hb hc (successStatus_sn hst hsigned)
      (schedTransacted_sn_sends sl hr hfit) nofun, ?_, slot_setSlot_same s sl _,
      fun sl' hne => slot_setSlot_ne s sl sl' _ (Ne.symm hne), ?_, hread (0x2000, b) (by simp),
      hread (0x2100, p) (by simp), hread (readingBase .sn sl, p) (by simp), fun a h1 h2 h3 h4 => ?_⟩
    · have heq := firstSend_eq u .meas sl .scan
      rw [hpay, haddr] at heq
      exact congrArg (fun v : State => { v with mem := s.mem, slots := s.slots }) heq
    · rw [← hflen]
      exact hread (0x1000, requestFrame (s.slot sl).addr (s.payload .meas)) (by simp)
    · refine byteAt_setAll_out hmem rfl ?_
      simpa [Outside, hflen, Nat.succ_le_iff, readingBase] using ⟨h2, h3, h4, h1⟩
  case overflow =>
    have hgo := schedTransacted_sn_overflows (s := s.succeeded .sn sl rest b st p c) sl hr hover hpace
    have hslots := slots_setSlot_again (u := s.succeeded .sn sl rest b st p c) rfl
      fun y => y.withRetry .meas 1 .failed
    have hslot (sl') := slot_congr (s.setSlot sl ((s.slotSucceeded .sn sl p).withRetry .meas 1 .failed))
      (State.setSlot (s.succeeded .sn sl rest b st p c) sl
        (((s.succeeded .sn sl rest b st p c).slot sl).withRetry .meas 1 .failed)) hslots sl'
    have hread (w) (hw : w ∈ [(0x2000, b), (0x2100, p), (readingBase .sn sl, p)]) :
        (s.succeeded .sn sl rest b st p c).bytesAt w.1 w.2.length = w.2 :=
      bytesAt_setAll_in (s := s) (t := s.succeeded .sn sl rest b st p c) rfl rfl
        (success_apart .sn sl hlb hlp) hw
    refine ⟨_, step_succeeds h hd hb hc (successStatus_sn hst hsigned) hgo nofun, rfl,
      (hslot sl).trans (slot_setSlot_same s sl _),
      fun sl' hne => (hslot sl').trans (slot_setSlot_ne s sl sl' _ (Ne.symm hne)),
      hread (0x2000, b) (by simp), hread (0x2100, p) (by simp),
      hread (readingBase .sn sl, p) (by simp), fun a h1 h2 h3 => ?_⟩
    refine byteAt_setAll_out (s := s) (t := s.succeeded .sn sl rest b st p c) rfl rfl ?_
    simpa [Outside, Nat.succ_le_iff, readingBase] using ⟨h1, h2, h3⟩
  case pace =>
    have hgo := (schedTransacted_meas_ok sl (s.succeeded .meas sl rest b st p c)).trans
      (schedPaceSlot_sleeps hpace)
    have hread (w) (hw : w ∈ [(0x2000, b), (0x2100, p), (readingBase .meas sl, p)]) :
        (s.succeeded .meas sl rest b st p c).bytesAt w.1 w.2.length = w.2 :=
      bytesAt_setAll_in (s := s) (t := s.succeeded .meas sl rest b st p c) rfl rfl
        (success_apart .meas sl hlb hlp) hw
    refine ⟨_, step_succeeds h hd hb hc (successStatus_meas hst) hgo nofun, rfl, slot_setSlot_same s sl _,
      fun sl' hne => slot_setSlot_ne s sl sl' _ (Ne.symm hne), getLsbD_freshAfter,
      hread (0x2000, b) (by simp), hread (0x2100, p) (by simp),
      hread (readingBase .meas sl, p) (by simp), fun a h1 h2 h3 => ?_⟩
    refine byteAt_setAll_out (s := s) (t := s.succeeded .meas sl rest b st p c) rfl rfl ?_
    simpa [Outside, Nat.succ_le_iff, readingBase] using ⟨h1, h2, h3⟩

end Sys2Proof.Machine
end

section
/-! PROOFS. The scan scheduler between its suspension points (R230 to R246): its start, WAITING, the slots of a
pass, the records, and the end of a pass. -/

namespace Sys2Proof.Machine

/-! ### The minimum delay and the open request (R233, R234) -/

section Waiting

variable {s : State}

theorem schedTest_opens (h : s.mustWait = false) :
    schedTest s = s.tpCall s.openReq .schedOpen := by
  simp [schedTest, h]

theorem schedTest_polls (h : s.mustWait = true) (hms : s.params.pollMs ≠ 0) : schedTest s = { s with
    cont := .schedPoll, sleepUntil := some (s.now + s.params.pollMs.setWidth 64) } := by
  simp only [schedTest, if_pos h, sleep_param _ _ hms, Option.getD_some]

theorem schedIdle_waits (h : s.unbounded = true ∨ s.remaining ≠ 0) :
    schedIdle s = schedTest { s with sstate := .waiting } :=
  (schedIdle_cases s).elim (·.2) fun ⟨hu, hr, _⟩ =>
    absurd h (by simp [hu, hr])

theorem schedIdle_halts (hu : s.unbounded = false) (hr : s.remaining = 0) :
    schedIdle s = { s with sstate := .idle, cont := .haltIdle } :=
  (schedIdle_cases s).elim (fun ⟨h, _⟩ => absurd h (by simp [hu, hr])) (·.2.2)

theorem mustWait_eq_false (h : s.lastValid = false ∨
    s.minScanDelay.toNat * 1000 ≤ (s.now - s.lastScan).toNat) : s.mustWait = false := by
  rw [← Bool.not_eq_true, mustWait_iff]
  rintro ⟨hv, hlt⟩
  rcases h with h | h
  · rw [h] at hv
    cases hv
  · omega

/-- At LAST_SCAN itself, exactly a minimum delay of 0 is satisfied. -/
theorem mustWait_at_lastScan (hv : s.lastValid = true) (hn : s.lastScan = s.now) :
    s.mustWait = true ↔ s.minScanDelay ≠ 0 := by
  rw [mustWait_iff, hn, BitVec.sub_self, ← BitVec.toNat_inj.ne]
  simp [hv]
  omega

end Waiting

/-! ### The end of a pass (R241) -/

/-- What COMPLETE writes before it goes on, with SSTATE `x` (R241). -/
def State.passEnded (s : State) (x : SState) : State :=
  { s with
    tpOpen := false, tpLog := .closeLine :: s.tpLog, sstate := x, lastScan := s.now, lastValid := true
    irqPend := s.irqPend ||| 0b010000 }

/-- COMPLETE, but for the wait that never ends, is `State.passCompleted`. -/
theorem schedComplete_eq {s : State} (h : ¬ s.endlessWait) : schedComplete s = s.passCompleted := by
  have hcomplete : schedComplete s = schedIdle (s.passEnded .complete) := rfl
  have hwait : (s.passEnded .waiting).mustWait = true ↔ s.minScanDelay ≠ 0 :=
    mustWait_at_lastScan rfl rfl
  rw [hcomplete, State.passCompleted]
  by_cases hbudget : s.unbounded = false ∧ s.remaining = 0
  · rw [if_pos hbudget]
    exact schedIdle_halts hbudget.1 hbudget.2
  · have hleft : s.unbounded = true ∨ s.remaining ≠ 0 := by
      by_contra hno
      exact hbudget (by simpa using hno)
    have hidle : schedIdle (s.passEnded .complete) = schedTest (s.passEnded .waiting) :=
      schedIdle_waits (s := s.passEnded .complete) hleft
    rw [if_neg hbudget, hidle]
    by_cases hdelay : s.minScanDelay = 0
    · rw [if_pos hdelay, schedTest_opens (Bool.eq_false_iff.2 fun hw => hwait.1 hw hdelay)]
      rfl
    · rw [if_neg hdelay, schedTest_polls (hwait.2 hdelay) fun hms => h ⟨hms, hdelay, hleft⟩]
      rfl

/-- The end of a pass does not depend on where SSTATE stood. -/
theorem passCompleted_sstate (s : State) (x : SState) :
    State.passCompleted { s with sstate := x } = s.passCompleted := rfl

/-- Whether the pass ends in the wait that never ends is not read off the fields the last record changes. -/
theorem passCompleted_ne_spin (s : State) : s.passCompleted.cont ≠ .spin := by
  unfold State.passCompleted
  split
  · nofun
  · split <;> nofun

/-! ### Records (R240) -/

section Records

variable {s : State} {j : Nat}

theorem nextFresh_eq_some (hlo : s.recNext ≤ j) (hhi : j < s.numAddr.toNat)
    (hj : s.fresh.getLsbD j = true)
    (hbefore : ∀ i, s.recNext ≤ i → i < j → s.fresh.getLsbD i = false) : s.nextFresh = some j := by
  refine List.find?_range_eq_some.2 ⟨by simp [hlo, hj], List.mem_range.2 hhi, fun i hi => ?_⟩
  by_cases hn : s.recNext ≤ i
  · simp [hbefore i hn hi]
  · simp [hn]

theorem nextFresh_eq_none (h : ∀ i, s.recNext ≤ i → i < s.numAddr.toNat → s.fresh.getLsbD i = false) :
    s.nextFresh = none := by
  refine List.find?_range_eq_none.2 fun i hi => ?_
  by_cases hn : s.recNext ≤ i
  · simp [h i hn hi]
  · simp [hn]

theorem schedPresent_some (h : s.nextFresh = some j) : schedPresent s = { s with
    recSlot := BitVec.ofNat 5 j, recPend := true, recNext := j + 1, cont := .schedAck
    irqPend := s.irqPend ||| 0b001000 } := by
  simp only [schedPresent, h]
  rfl

theorem schedPresent_none (h : s.nextFresh = none) : schedPresent s = schedComplete s := by
  simp only [schedPresent, h]

end Records

/-- The state after an acknowledgement's code is logged (R240). -/
def State.ackLogged (s : State) (c : Byte) : State :=
  { s with
    evtFifo := if c = 0 then s.evtFifo else s.fifoAfter [eventWord .persistenceFailure c s.recSlot .sn]
    logOvf := if c = 0 then s.logOvf else s.ovfAfter [eventWord .persistenceFailure c s.recSlot .sn]
    irqPend := s.irqPend ||| (if c = 0 then 0b000000 else 0b100000) }

theorem schedAcked_eq (c : Byte) (s : State) : schedAcked c s = schedPresent (s.ackLogged c) := by
  unfold schedAcked State.ackLogged
  by_cases h : c = 0
  · simp only [if_pos h, or_noIrq]
  · simp only [if_neg h, log_eq]

/-- RESULT_ACK c issued while a record is presented lets the scheduler go on in the same step (R246). -/
theorem step_acknowledged {s t : State} {c : Byte} {rest : List Move} (he : s.eng = .sched)
    (hc : s.cont = .schedAck) (hp : s.recPend = true) (hr : s.resume = none)
    (hin : s.inputs = issueMove (encode (.resultAck c)) :: rest)
    (ht : schedAcked c { s with inputs := rest, defer := false, recPend := false } = t)
    (hs : t.cont ≠ .spin) : step s = .next t := by
  rw [step_issue hin (exec_resultAck_taken (s := { s with inputs := rest, defer := false }) c (by simp [he]) hp)]
  refine settle_run (r := .ack c) rfl rfl (by rw [hc]; rfl) t ?_ hs
  rw [← ht, hc, ← hr]
  rfl

/-- Settles O32: the code is logged, and the first FRESH slot from REC_NEXT on is found. -/
theorem acknowledgedRecordGoesOn : Obligations.AcknowledgedRecordGoesOn := by
  unfold Obligations.AcknowledgedRecordGoesOn
  intro s c j rest he hc hp hr hin hlo hhi hj hbefore
  have hcont : s.cont ≠ .spin := by
    rw [hc]
    nofun
  have hlog : (if c = 0 then (0b000000 : BitVec 6) else 0b100000) ||| 0b001000 =
      if c = 0 then 0b001000 else 0b101000 := by
    split <;> rfl
  refine step_acknowledged he hc hp hr hin ?_ hcont
  rw [schedAcked_eq]
  refine (schedPresent_some (nextFresh_eq_some (s := State.ackLogged { s with
    inputs := rest, defer := false, recPend := false } c) hlo hhi hj hbefore)).trans ?_
  simp only [State.ackLogged, hc, BitVec.or_assoc, hlog]
  rfl

/-- Settles O33: the code is logged, no FRESH slot is found, and the pass completes. -/
theorem lastAcknowledgementCompletesPass : Obligations.LastAcknowledgementCompletesPass := by
  unfold Obligations.LastAcknowledgementCompletesPass
  intro s c rest he hc hp hr hin hnone hend
  refine step_acknowledged he hc hp hr hin ?_ (passCompleted_ne_spin _)
  rw [schedAcked_eq]
  exact (schedPresent_none (nextFresh_eq_none (s := State.ackLogged { s with
    inputs := rest, defer := false, recPend := false } c) hnone)).trans (schedComplete_eq hend)

/-! ### The open request's answer (R234 to R237) -/

/-- The event word of an open failure (R306, R307). -/
theorem eventWord_openFailure : eventWord .transportOpenFailure 0 0 .sn = 0x00000009 := rfl

theorem schedOpened_fails {s : State} (h : s.params.pollMs ≠ 0) : schedOpened false s = { s with
    cont := .schedBackoff, sleepUntil := some (s.now + s.params.pollMs.setWidth 64)
    evtFifo := s.fifoAfter [0x00000009], logOvf := s.ovfAfter [0x00000009]
    irqPend := s.irqPend ||| 0b100000 } := by
  have hsleep : schedOpened false s = ((s.log .transportOpenFailure 0 0 .sn).sleep
      (s.params.pollMs.setWidth 64) .schedBackoff).getD
        (schedIdle (s.log .transportOpenFailure 0 0 .sn)) := rfl
  rw [hsleep, log_eq, eventWord_openFailure, sleep_param _ _ h]
  rfl

/-- Settles O35: the failure is logged and slept on, and the sleep's end tests the minimum delay. -/
theorem openFailureBacksOff : Obligations.OpenFailureBacksOff := by
  unfold Obligations.OpenFailureBacksOff
  intro s tag b d p st rest
  refine ⟨fun hcall hms => ?fails, fun hwake hleft hdelay => ?opens, fun hwake hleft hv hdelay hms => ?waits⟩
  case fails => exact step_answer_runs hcall rfl rfl (schedOpened_fails hms) nofun
  case opens =>
    refine step_wake_runs hwake rfl ((schedIdle_waits (by exact hleft)).trans (schedTest_opens ?_)) nofun
    exact mustWait_eq_false hdelay
  case waits =>
    refine step_wake_runs hwake rfl ((schedIdle_waits (by exact hleft)).trans (schedTest_polls ?_ hms)) nofun
    exact mustWait_iff.2 ⟨hv, hdelay⟩

theorem schedOpened_receives {s : State} (h : s.params.rxTimeoutMs ≠ 0) : schedOpened true s = { s with
    cont := .schedFlush, tpOpen := true, fresh := 0
    remaining := if s.unbounded = true then s.remaining else s.remaining - 1
    tpReq := some ⟨s.tpSeq, .recvBytes s.params.rxCap s.params.rxTimeoutMs⟩
    tpSeq := s.tpSeq + 1
    tpLog := .recvBytes s.params.rxCap s.params.rxTimeoutMs :: s.tpLog
    rxDeadline := some (s.now + s.params.rxTimeoutMs.setWidth 64) } := by
  have hreceive : schedOpened true s = (State.receive { s with
      tpOpen := true, remaining := if s.unbounded = true then s.remaining else s.remaining - 1
      fresh := 0 } .schedFlush).getD (schedScan (State.receiveNow { s with
        tpOpen := true, remaining := if s.unbounded = true then s.remaining else s.remaining - 1
        fresh := 0 })) := rfl
  rw [hreceive, receive_pos (by exact h)]
  rfl

/-! ### SCANNING (R238) -/

section Scanning

variable {s : State}

/-- SCANNING with a slot `sl` to begin. -/
def State.scanning (s : State) (sl : SlotId) : State := { s with sstate := .scanning, curSlot := sl }

/-- What SCANNING makes of the beginning of a slot's serial-number Transact, `n` slots left after it. -/
def TProgress.slotBegun (n : Nat) : TProgress → State
  | .suspended u => u
  | .ended u _ => u.pace.getD (schedSlots n u)

theorem schedSlots_succ {n : Nat} {sl : SlotId} (hsl : BitVec.ofNat 5 (s.numAddr.toNat - (n + 1)) = sl) :
    schedSlots (n + 1) s = (transactBegin .sn sl .scan (s.scanning sl)).slotBegun n := by
  subst hsl
  rw [schedSlots]
  simp only [State.scanning]
  split <;> simp only [*, TProgress.slotBegun]

theorem slotBegun_ended {n : Nat} {u : State} {r : TResult} (h : u.params.paceMs ≠ 0) :
    TProgress.slotBegun n (.ended u r) = { u with
      cont := .schedPace, sleepUntil := some (u.now + u.params.paceMs.setWidth 64) } := by
  rw [TProgress.slotBegun, pace_sleeps h]
  rfl

theorem schedSlots_sends {n : Nat} {sl : SlotId} (hsl : BitVec.ofNat 5 (s.numAddr.toNat - (n + 1)) = sl)
    (hr : s.maxRetries ≠ 0) (hfit : s.cmdLen0.toNat + 3 ≤ s.params.txCap) :
    schedSlots (n + 1) s = (s.scanning sl).firstSend .sn sl .scan := by
  rw [schedSlots_succ hsl, transactBegin_sends (s := s.scanning sl) (k := .sn) sl .scan hr hfit]
  rfl

theorem schedSlots_overflows {n : Nat} {sl : SlotId}
    (hsl : BitVec.ofNat 5 (s.numAddr.toNat - (n + 1)) = sl) (hr : s.maxRetries ≠ 0)
    (hover : s.params.txCap < s.cmdLen0.toNat + 3) (hpace : s.params.paceMs ≠ 0) :
    schedSlots (n + 1) s = { s with
      cont := .schedPace, sleepUntil := some (s.now + s.params.paceMs.setWidth 64)
      sstate := .scanning, curSlot := sl, attempts := 1, rstate := .failed, lastFail := .none
      txValid := false, txLen := 0
      slots := (s.setSlot sl ((s.slot sl).withRetry .sn 1 .failed)).slots
      evtFifo := s.fifoAfter [eventWord .encodingOverflow 0 sl .sn]
      logOvf := s.ovfAfter [eventWord .encodingOverflow 0 sl .sn]
      irqPend := s.irqPend ||| 0b100000 } := by
  rw [schedSlots_succ hsl, transactBegin_overflows (s := s.scanning sl) (k := .sn) sl .scan hr hover,
    slotBegun_ended (by exact hpace)]
  rfl

/-- A slot begun is `State.SlotStarted` (R231, R238). -/
theorem schedSlots_started {n : Nat} {sl : SlotId}
    (hsl : BitVec.ofNat 5 (s.numAddr.toNat - (n + 1)) = sl) (hr : s.maxRetries ≠ 0)
    (hpace : s.params.txCap < s.cmdLen0.toNat + 3 → s.params.paceMs ≠ 0) :
    s.SlotStarted (schedSlots (n + 1) s) sl ∧ (schedSlots (n + 1) s).cont ≠ .spin := by
  rcases Nat.lt_or_ge s.params.txCap (s.cmdLen0.toNat + 3) with hover | hfit
  · rw [schedSlots_overflows hsl hr hover (hpace hover)]
    exact ⟨⟨fun hfit => absurd hover (Nat.not_lt.2 hfit), fun _ => ⟨rfl, slot_setSlot_same s sl _,
      fun sl' hne => slot_setSlot_ne s sl sl' _ (Ne.symm hne)⟩⟩, nofun⟩
  · rw [schedSlots_sends hsl hr hfit]
    exact ⟨⟨fun _ => ⟨firstSend_eq (s.scanning sl) .sn sl .scan,
      firstSend_storesAt (s.scanning sl) .sn sl .scan⟩,
      fun hover => absurd hover (Nat.not_lt.2 hfit)⟩, nofun⟩

end Scanning

/-- Settles O36: the open's answer makes the dummy receive, and its end begins slot 0, whatever it got. -/
theorem scanPassStarts : Obligations.ScanPassStarts := by
  unfold Obligations.ScanPassStarts
  refine ⟨fun s tag b d p st rest hcall hms => ?opened, fun s tag d m n rest h hm hna hr hpace => ?flushed⟩
  case opened => exact step_answer_runs hcall rfl rfl (schedOpened_receives hms) nofun
  case flushed =>
    obtain ⟨i, hi⟩ : ∃ i, s.numAddr.toNat = i + 1 := Nat.exists_eq_succ_of_ne_zero (by omega)
    obtain ⟨hstart, hcont⟩ := schedSlots_started (s := { s with
      inputs := rest, defer := false, now := n, tpReq := none, rxDeadline := none }) (n := i) (sl := 0)
      (by simp [hi]) hr hpace
    refine ⟨_, ?_, hstart⟩
    have hscan : schedScan { s with
        inputs := rest, defer := false, now := n, tpReq := none, rxDeadline := none } =
        schedSlots (i + 1) { s with
          inputs := rest, defer := false, now := n, tpReq := none, rxDeadline := none } :=
      congrArg (fun x => schedSlots x _) hi
    obtain ⟨rfl, hd, rfl⟩ | ⟨hans, hd, rfl⟩ := hm
    · exact step_receive_deadline_runs h hd rfl hscan hcont
    · obtain rfl | ⟨b, rfl, hb⟩ := hans
      · exact step_receive_answer_runs h hd (.inl rfl) rfl hscan hcont
      · exact step_receive_answer_runs h hd (.inr ⟨b, rfl, hb⟩) rfl hscan hcont

/-- Settles O39: CUR_SLOT and NUM_ADDR decide between the next slot and WRITING, and FRESH between a record and
the end of the pass. -/
theorem pacingEndGoesOn : Obligations.PacingEndGoesOn := by
  unfold Obligations.PacingEndGoesOn
  intro s rest hwake
  refine ⟨fun hlt hr hpace => ?next, fun hge => ⟨fun j hhi hj hbefore => ?record, fun hnone hend => ?done⟩⟩
  case next =>
    obtain ⟨i, hi⟩ : ∃ i, s.numAddr.toNat - (s.curSlot.toNat + 1) = i + 1 :=
      Nat.exists_eq_succ_of_ne_zero (by omega)
    have hsl : BitVec.ofNat 5 (s.numAddr.toNat - (i + 1)) = s.curSlot + 1 := by
      rw [← hi, Nat.sub_sub_self hlt.le, BitVec.ofNat_add, BitVec.ofNat_toNat, BitVec.setWidth_eq]
      rfl
    obtain ⟨hstart, hcont⟩ := schedSlots_started (s := { s with
      inputs := rest, defer := false, now := s.now + 1, sleepUntil := none }) (n := i) hsl hr hpace
    exact ⟨_, step_wake_runs hwake rfl (congrArg (fun x => schedSlots x _) hi) hcont, hstart⟩
  case record =>
    have hzero : s.numAddr.toNat - (s.curSlot.toNat + 1) = 0 := Nat.sub_eq_zero_of_le hge
    refine step_wake_runs hwake rfl ((congrArg (fun x => schedSlots x _) hzero).trans ?_) nofun
    exact schedPresent_some (nextFresh_eq_some (s := { s with
      inputs := rest, defer := false, now := s.now + 1, sleepUntil := none, sstate := .writing, recNext := 0 })
        (Nat.zero_le _) hhi hj fun i _ => hbefore i)
  case done =>
    have hzero : s.numAddr.toNat - (s.curSlot.toNat + 1) = 0 := Nat.sub_eq_zero_of_le hge
    refine step_wake_runs hwake rfl ((congrArg (fun x => schedSlots x _) hzero).trans ?_)
      (passCompleted_ne_spin _)
    refine (schedPresent_none (nextFresh_eq_none (s := { s with
      inputs := rest, defer := false, now := s.now + 1, sleepUntil := none, sstate := .writing, recNext := 0 })
        fun i _ => hnone i)).trans ?_
    rw [schedComplete_eq (by exact hend)]
    exact passCompleted_sstate { s with
      inputs := rest, defer := false, now := s.now + 1, sleepUntil := none, recNext := 0 } .writing

end Sys2Proof.Machine
end

section
/-! PROOFS. The start of the scan scheduler (R230, R232 to R234, R310) and the time of its next scan (R245). -/

namespace Sys2Proof.Machine

/-! ### The preconditions of SCAN_START (R230) -/

section ScanStart

variable {s : State}

/-- Two configured slots with the same address on the line (R230). -/
def State.sharedAddr (s : State) : Prop :=
  ∃ x y : SlotId, x.toNat < s.numAddr.toNat ∧ y.toNat < s.numAddr.toNat ∧ x ≠ y ∧
    (s.slot x).addr &&& 0x7F = (s.slot y).addr &&& 0x7F

/-- With as many slots as the slot file holds, the addresses are distinct unless two slots share one. -/
theorem lineAddrs_nodup_iff (h : s.numAddr.toNat ≤ 32) : s.lineAddrs.Nodup ↔ ¬ s.sharedAddr := by
  have hinj : s.lineAddrs.Nodup ↔ ∀ i < s.numAddr.toNat, ∀ j < s.numAddr.toNat,
      (s.slot (BitVec.ofNat 5 i)).addr &&& 0x7F = (s.slot (BitVec.ofNat 5 j)).addr &&& 0x7F → i = j := by
    rw [State.lineAddrs, List.nodup_map_iff_inj_on List.nodup_range]
    simp only [List.mem_range]
  have hofNat (i) (hi : i < s.numAddr.toNat) : (BitVec.ofNat 5 i).toNat = i := by
    rw [BitVec.toNat_ofNat, Nat.mod_eq_of_lt (by omega)]
  rw [hinj]
  constructor
  · rintro hn ⟨x, y, hx, hy, hne, he⟩
    refine hne (BitVec.eq_of_toNat_eq (hn _ hx _ hy ?_))
    simpa using he
  · intro hn i hi j hj he
    by_contra hne
    refine hn ⟨BitVec.ofNat 5 i, BitVec.ofNat 5 j, by rwa [hofNat i hi], by rwa [hofNat j hj], ?_, he⟩
    intro hij
    have := congrArg BitVec.toNat hij
    rw [hofNat i hi, hofNat j hj] at this
    exact hne this

/-- A configuration that SCAN_START rejects (R230). -/
def State.badScan (s : State) : Prop :=
  (s.numAddr.toNat = 0 ∨ s.params.maxSlots < s.numAddr.toNat) ∨ ¬ s.lineAddrs.Nodup ∨
    s.params.cmdBufCap < (s.cmdLen .sn).toNat ∨ s.params.cmdBufCap < (s.cmdLen .meas).toNat ∨
    s.maxRetries = 0

theorem not_badScan (hna : s.numAddr.toNat ≠ 0) (hslots : s.numAddr.toNat ≤ s.params.maxSlots)
    (h32 : s.numAddr.toNat ≤ 32) (haddr : ¬ s.sharedAddr) (h0 : s.cmdLen0.toNat ≤ s.params.cmdBufCap)
    (h1 : s.cmdLen1.toNat ≤ s.params.cmdBufCap) (hr : s.maxRetries ≠ 0) : ¬ s.badScan := by
  rintro ((h | h) | h | h | h | h)
  exacts [hna h, absurd h (Nat.not_lt.2 hslots), h ((lineAddrs_nodup_iff h32).2 haddr),
    absurd h (Nat.not_lt.2 h0), absurd h (Nat.not_lt.2 h1), hr h]

/-- The configuration's conditions come first, all with one code; the transport's comes last. -/
def scanConditions (s : State) : List (Bool × Code) :=
  [(decide (s.numAddr.toNat = 0 ∨ s.params.maxSlots < s.numAddr.toNat), .configError),
    (decide (¬ s.lineAddrs.Nodup), .configError), needCmdLen .sn s, needCmdLen .meas s, needRetries s]

theorem preScanStart_eq (s : State) : preScanStart s =
    firstFailure (scanConditions s ++ [(s.tpOpen, .transportStateError)]) := rfl

theorem preScanStart_of_bad (h : s.badScan) : preScanStart s = some .configError := by
  rw [preScanStart_eq]
  refine firstFailure_of_mem (by simp [scanConditions, needCmdLen, needRetries]) ?_ _
  simpa [scanConditions, needCmdLen, needRetries, State.badScan] using h

theorem scanConditions_of_good (h : ¬ s.badScan) : ∀ x ∈ scanConditions s, x.1 = false := by
  simpa [scanConditions, needCmdLen, needRetries, State.badScan] using h

theorem preScanStart_of_open (h : ¬ s.badScan) (hopen : s.tpOpen = true) :
    preScanStart s = some .transportStateError := by
  rw [preScanStart_eq, firstFailure_append (scanConditions_of_good h), hopen]
  rfl

theorem preScanStart_of_closed (h : ¬ s.badScan) (hclosed : s.tpOpen = false) :
    preScanStart s = none := by
  rw [preScanStart_eq, firstFailure_append (scanConditions_of_good h), hclosed]
  rfl

theorem exec_scanStart_rejected {c : Code} (he : s.eng = .ready) (hp : preScanStart s = some c) :
    exec .scanStart s =
      .next { s with rej := ⟨c, 0x0B⟩, irqPend := s.irqPend ||| 0b000100 } := by
  rw [← opOf_scanStart]
  exact issue_reject s _ _ _ c he hp

/-- SCAN_START accepted: the budget is at least one pass, so the scheduler enters WAITING. -/
theorem exec_scanStart_accepted (he : s.eng = .ready) (hgood : ¬ s.badScan) (hclosed : s.tpOpen = false) :
    exec .scanStart s = .next (schedTest { s.scanAccepted with sstate := .waiting }) := by
  rw [exec_scanStart, issue_accept s _ _ _ he (preScanStart_of_closed hgood hclosed), runScanStart_eq,
    schedIdle_waits]
  by_cases h : s.scanCount = 0
  · exact .inl (by simp [State.scanAccepted, h])
  · exact .inr h

end ScanStart

/-- Settles O29: the configuration's conditions, then the transport's, then the minimum delay decide. -/
theorem scanStartStartsOrRejects : Obligations.ScanStartStartsOrRejects := by
  unfold Obligations.ScanStartStartsOrRejects
  have hdistinct {s : State} (haddr : ∀ x y : SlotId, x.toNat < s.numAddr.toNat →
      y.toNat < s.numAddr.toNat → x ≠ y → (s.slot x).addr &&& 0x7F ≠ (s.slot y).addr &&& 0x7F) :
      ¬ s.sharedAddr := fun ⟨x, y, hx, hy, hne, hxy⟩ => haddr x y hx hy hne hxy
  refine ⟨fun s he _ hclosed hr hpos hslots haddr h0 h1 h32 => ?accepted,
    fun s he h32 => ⟨fun hbad => ?config, fun hopen hna hslots haddr h0 h1 hr => ?transport⟩⟩
  case accepted =>
    have haccept := exec_scanStart_accepted he (not_badScan (Nat.ne_of_gt hpos) hslots (hslots.trans h32)
      (hdistinct haddr) h0 h1 hr) hclosed
    refine ⟨fun hdelay => ?_, fun hv hle hlt hms => ?_⟩
    · have hsatisfied : State.mustWait { s.scanAccepted with sstate := .waiting } = false := by
        refine mustWait_eq_false (hdelay.imp id fun hz => ?_)
        show s.minScanDelay.toNat * 1000 ≤ _
        rw [hz]
        exact Nat.zero_le _
      rw [haccept, schedTest_opens hsatisfied]
      rfl
    · have hwait : State.mustWait { s.scanAccepted with sstate := .waiting } = true := by
        refine mustWait_iff.2 ⟨hv, ?_⟩
        show (s.now - s.lastScan).toNat < _
        rwa [BitVec.toNat_sub_of_le hle]
      rw [haccept, schedTest_polls hwait hms]
      rfl
  case config =>
    refine exec_scanStart_rejected he (preScanStart_of_bad ?_)
    rcases hbad with h | h | ⟨hle, h⟩ | h | h | h
    · exact .inl (.inl (congrArg BitVec.toNat h))
    · exact .inl (.inr h)
    · exact .inr (.inl fun hn => (lineAddrs_nodup_iff (hle.trans h32)).1 hn h)
    · exact .inr (.inr (.inl h))
    · exact .inr (.inr (.inr (.inl h)))
    · exact .inr (.inr (.inr (.inr h)))
  case transport =>
    have hna' : s.numAddr.toNat ≠ 0 := fun e => hna (BitVec.eq_of_toNat_eq e)
    exact exec_scanStart_rejected he (preScanStart_of_open (not_badScan hna' hslots (hslots.trans h32)
      (hdistinct haddr) h0 h1 hr) hopen)

/-! ### The time of the next open (R245) -/

/-- The number of polls until `d` milliseconds have passed. -/
def pollCount (d poll : Nat) : Nat := (d + poll - 1) / poll

theorem lt_of_lt_pollCount {d poll i : Nat} (hp : 0 < poll) (h : i < pollCount d poll) :
    i * poll < d := by
  have hle : (i + 1) * poll ≤ d + poll - 1 := (Nat.le_div_iff_mul_le hp).1 h
  rw [Nat.succ_mul] at hle
  omega

theorem le_pollCount_mul {d poll : Nat} (hp : 0 < poll) : d ≤ pollCount d poll * poll := by
  have hlt := Nat.lt_mul_div_succ (d + poll - 1) hp
  rw [Nat.mul_comm, Nat.succ_mul] at hlt
  unfold pollCount
  omega

theorem pollCount_pos {d poll : Nat} (hp : 0 < poll) (hd : 0 < d) : 0 < pollCount d poll :=
  Nat.div_pos (by omega) hp

section Polling

variable {s : State} {rest : List Move} {q i : Nat}

/-- The state at the beginning of poll `i` of `q`, in the schedule's ticks of the rest (R233). -/
def State.polling (s : State) (rest : List Move) (q i : Nat) : State :=
  { s with
    inputs := List.replicate ((q - i) * s.params.pollMs.toNat) tickMove ++ rest
    defer := s.defer && decide (i = 0), now := s.now + BitVec.ofNat 64 (i * s.params.pollMs.toNat)
    sleepUntil := some (s.now + BitVec.ofNat 64 ((i + 1) * s.params.pollMs.toNat)) }

/-- The scheduler in its first poll sleep after a pass that ended at NOW. -/
structure State.FirstPoll (s : State) : Prop where
  cont : s.cont = .schedPoll
  resume : s.resume = none
  tpReq : s.tpReq = none
  rxDeadline : s.rxDeadline = none
  lastValid : s.lastValid = true
  lastScan : s.lastScan = s.now
  pollMs : s.params.pollMs ≠ 0

theorem add_ofNat_mul_succ (x : Time) (i p : Nat) :
    x + BitVec.ofNat 64 (i * p) + BitVec.ofNat 64 p = x + BitVec.ofNat 64 ((i + 1) * p) := by
  rw [BitVec.add_assoc, ← BitVec.ofNat_add, Nat.succ_mul]

/-- A poll's ticks do not overflow NOW. -/
theorem polling_now (hi : i ≤ q) (hlt : s.now.toNat + q * s.params.pollMs.toNat < 2 ^ 64) :
    (s.polling rest q i).now.toNat = s.now.toNat + i * s.params.pollMs.toNat := by
  have hmul := Nat.mul_le_mul_right s.params.pollMs.toNat hi
  exact toNat_add_ofNat (by omega)

theorem polling_asleep (h : s.FirstPoll) : (s.polling rest q i).Asleep
    ((s.polling rest q i).now + BitVec.ofNat 64 s.params.pollMs.toNat) where
  cont := by
    show s.cont ≠ .spin
    rw [h.cont]
    nofun
  sleepUntil := congrArg some (add_ofNat_mul_succ s.now i _).symm
  rxDeadline := h.rxDeadline
  resume := h.resume

/-- The state in which WAITING tests the minimum delay at the end of poll `i` (R233). -/
def State.polled (s : State) (rest : List Move) (q i : Nat) : State :=
  { s with
    inputs := List.replicate ((q - (i + 1)) * s.params.pollMs.toNat) tickMove ++ rest, defer := false
    now := s.now + BitVec.ofNat 64 ((i + 1) * s.params.pollMs.toNat), sleepUntil := none }

/-- The ticks of poll `i` lead to WAITING's test at its end. -/
theorem stepN_poll {t : State} (h : s.FirstPoll) (hi : i < q)
    (hlt : s.now.toNat + q * s.params.pollMs.toNat < 2 ^ 64)
    (ht : schedTest (s.polled rest q i) = t) (hs : t.cont ≠ .spin) :
    stepN s.params.pollMs.toNat (s.polling rest q i) = .next t := by
  have hpos : s.params.pollMs.toNat ≠ 0 := fun e => h.pollMs (BitVec.eq_of_toNat_eq e)
  have hasleep := polling_asleep (rest := rest) (q := q) (i := i) h
  have hmul : (i + 1) * s.params.pollMs.toNat ≤ q * s.params.pollMs.toNat := Nat.mul_le_mul_right _ hi
  rw [Nat.succ_mul] at hmul
  have hnow := polling_now (rest := rest) hi.le hlt
  have hin : (s.polling rest q i).inputs = List.replicate s.params.pollMs.toNat tickMove ++
      (List.replicate ((q - (i + 1)) * s.params.pollMs.toNat) tickMove ++ rest) := by
    have hsplit : (q - i) * s.params.pollMs.toNat =
        s.params.pollMs.toNat + (q - (i + 1)) * s.params.pollMs.toNat := by
      rw [show q - i = q - (i + 1) + 1 by omega, Nat.succ_mul, Nat.add_comm]
    rw [← List.append_assoc, ← List.replicate_add, ← hsplit]
    rfl
  refine stepN_sleep hpos hasleep h.cont h.tpReq hin (by omega) rfl ?_ hs
  rw [← ht]
  exact congrArg (fun x => schedTest { s.polled rest q i with now := x })
    (add_ofNat_mul_succ s.now i s.params.pollMs.toNat)

/-- The minimum delay at the end of a poll (R233). -/
theorem polled_mustWait (h : s.FirstPoll) (hi : i < q)
    (hlt : s.now.toNat + q * s.params.pollMs.toNat < 2 ^ 64) :
    (s.polled rest q i).mustWait = true ↔
      (i + 1) * s.params.pollMs.toNat < 1000 * s.minScanDelay.toNat := by
  have hmul : (i + 1) * s.params.pollMs.toNat ≤ q * s.params.pollMs.toNat := Nat.mul_le_mul_right _ hi
  have hnow : (s.now + BitVec.ofNat 64 ((i + 1) * s.params.pollMs.toNat)).toNat =
      s.now.toNat + (i + 1) * s.params.pollMs.toNat := toNat_add_ofNat (by omega)
  have helapsed : ((s.polled rest q i).now - (s.polled rest q i).lastScan).toNat =
      (i + 1) * s.params.pollMs.toNat := by
    show (s.now + BitVec.ofNat 64 ((i + 1) * s.params.pollMs.toNat) - s.lastScan).toNat = _
    rw [h.lastScan, BitVec.toNat_sub_of_le (BitVec.le_def.2 (by omega)), hnow, Nat.add_sub_cancel_left]
  rw [mustWait_iff, helapsed, Nat.mul_comm 1000]
  exact and_iff_right h.lastValid

/-- Before the minimum delay is over, each poll leads to the next. -/
theorem stepN_polls (h : s.FirstPoll) (hq : q = pollCount (1000 * s.minScanDelay.toNat) s.params.pollMs.toNat)
    (hlt : s.now.toNat + q * s.params.pollMs.toNat < 2 ^ 64) (hi : i < q) :
    stepN (i * s.params.pollMs.toNat) (s.polling rest q 0) = .next (s.polling rest q i) := by
  have hpos : 0 < s.params.pollMs.toNat :=
    Nat.pos_of_ne_zero fun e => h.pollMs (BitVec.eq_of_toNat_eq e)
  induction i with
  | zero => rw [Nat.zero_mul]; rfl
  | succ i ih =>
    have hwait := (polled_mustWait (rest := rest) (i := i) h (by omega) hlt).2
      (lt_of_lt_pollCount hpos (hq ▸ hi))
    rw [Nat.succ_mul, stepN_add (ih (by omega))]
    refine stepN_poll h (by omega) hlt ((schedTest_polls hwait h.pollMs).trans ?_) ?_
    · simp only [State.polling, State.polled, ← h.cont, Nat.succ_ne_zero, decide_false, Bool.and_false,
        ← add_ofNat_mul_succ s.now (i + 1), BitVec.ofNat_toNat]
    · show s.cont ≠ .spin
      rw [h.cont]
      nofun

end Polling

/-- Settles O38: every poll but the last leads to the next poll, and the last to the open. -/
theorem nextScanOpensAtPollMultiple : Obligations.NextScanOpensAtPollMultiple := by
  unfold Obligations.NextScanOpensAtPollMultiple
  intro s rest n he hc hr htp hrx hv hlast hsleep hms hdelay hn hlt hin
  have h : s.FirstPoll := ⟨hc, hr, htp, hrx, hv, hlast, hms⟩
  have hpos : 0 < s.params.pollMs.toNat :=
    Nat.pos_of_ne_zero fun e => hms (BitVec.eq_of_toNat_eq e)
  obtain ⟨q, hq⟩ : ∃ q, q = pollCount (1000 * s.minScanDelay.toNat) s.params.pollMs.toNat := ⟨_, rfl⟩
  have hn' : n = q * s.params.pollMs.toNat := by
    rw [hn, hq, Nat.mul_comm]
    rfl
  have hzero : s.polling rest q 0 = s := by
    simp only [State.polling, Nat.sub_zero, ← hn', ← hin, decide_true, Bool.and_true, Nat.zero_mul,
      Nat.zero_add, Nat.one_mul, BitVec.ofNat_toNat, ← hsleep, BitVec.add_zero]
  rw [hn'] at hlt ⊢
  refine ⟨fun k hk => ?early, ?opens⟩
  case early =>
    have hi : k / s.params.pollMs.toNat < q := Nat.div_lt_of_lt_mul (by rw [Nat.mul_comm]; exact hk)
    have hpolls := stepN_polls (rest := rest) h hq hlt hi
    rw [hzero] at hpolls
    have hmod := Nat.mod_lt k hpos
    have hleft : s.params.pollMs.toNat ≤ (q - k / s.params.pollMs.toNat) * s.params.pollMs.toNat :=
      Nat.le_mul_of_pos_left _ (by omega)
    have hmul := Nat.mul_le_mul_right s.params.pollMs.toNat (Nat.succ_le_of_lt hi)
    rw [Nat.succ_mul] at hmul
    have hnow := polling_now (rest := rest) hi.le hlt
    have hdeadline := toNat_add_ofNat (x := (s.polling rest q (k / s.params.pollMs.toNat)).now)
      (n := s.params.pollMs.toNat) (by omega)
    have hpass := stepN_asleep (n := k % s.params.pollMs.toNat) (polling_asleep (rest := rest) (q := q) h)
      (rest := List.replicate ((q - k / s.params.pollMs.toNat) * s.params.pollMs.toNat -
        k % s.params.pollMs.toNat) tickMove ++ rest)
      (by rw [← List.append_assoc, ← List.replicate_add, Nat.add_sub_cancel' (by omega)]; rfl)
      (by rw [hdeadline]; omega)
    rw [← Nat.div_add_mod' k s.params.pollMs.toNat, stepN_add hpolls]
    exact ⟨_, hpass, rfl, htp, rfl, hc⟩
  case opens =>
    have hq0 : 0 < q := by
      rw [hq]
      exact pollCount_pos hpos (Nat.mul_pos (by decide)
        (Nat.pos_of_ne_zero fun e => hdelay (BitVec.eq_of_toNat_eq e)))
    obtain ⟨i, rfl⟩ : ∃ i, q = i + 1 := Nat.exists_eq_succ_of_ne_zero hq0.ne'
    have hpolls := stepN_polls (rest := rest) h hq hlt (Nat.lt_succ_self i)
    rw [hzero] at hpolls
    have hdone : (s.polled rest (i + 1) i).mustWait = false := by
      rw [← Bool.not_eq_true, polled_mustWait h (Nat.lt_succ_self i) hlt, Nat.not_lt, hq]
      exact le_pollCount_mul hpos
    rw [Nat.succ_mul, stepN_add hpolls]
    refine ⟨_, stepN_poll h (Nat.lt_succ_self i) hlt (schedTest_opens hdone) nofun, rfl, ?_, ?_, rfl, rfl⟩
    · rw [← Nat.succ_mul]
      exact toNat_add_ofNat hlt
    · show List.replicate ((i + 1 - (i + 1)) * _) tickMove ++ rest = rest
      rw [Nat.sub_self, Nat.zero_mul]
      rfl

end Sys2Proof.Machine
end

section
/-! PROOFS. NAKs and then an ACK (R217): one round of a measurement's retry, from receive to receive, and the
induction over the rounds. -/

namespace Sys2Proof.Machine

/-- The host's measurement of slot `sl` in the receive of one of its attempts, numbered `tag`. -/
structure State.MeasReceiving (s : State) (sl : SlotId) (tag : Nat) : Prop where
  cont : s.cont = .queryRecv (.transact .meas sl .host)
  resume : s.resume = none
  sleepUntil : s.sleepUntil = none
  tpReq : ∃ cap ms, s.tpReq = some ⟨tag, .recvBytes cap ms⟩
  tpSeq : s.tpSeq = tag + 1
  deadline : ∃ d, s.rxDeadline = some d ∧ s.now < d

/-- `u` is `s` after one retry: a NAK taken, the next frame sent, its settle interval over. -/
structure State.Retried (s u : State) (sl : SlotId) (tag : Nat) (rest : List Move) : Prop where
  receiving : u.MeasReceiving sl (tag + 2)
  inputs : u.inputs = rest
  params : u.params = s.params
  maxRetries : u.maxRetries = s.maxRetries
  cmdLen1 : u.cmdLen1 = s.cmdLen1
  attempts : u.attempts = s.attempts + 1
  now : u.now = s.now + BitVec.ofNat 64 s.params.settleMs.toNat
  slot : u.slot sl = { s.slot sl with
    recv := (s.slot sl).recv + 1, nakc := (s.slot sl).nakc + 1, sent := (s.slot sl).sent + 1 }

section Round

variable {s : State} {sl : SlotId} {tag : Nat} {rest : List Move} {nak q : List Byte} {c : Byte}

/-- The failure that a NAK is (R211). -/
def State.nakFailure (s : State) (nak q : List Byte) (c : Byte) : Failed :=
  { s.failedAs .negativeAcknowledge with
    rxLen := BitVec.ofNat 9 nak.length, chk := ⟨c, nak.getLastD 0⟩, respStatus := 0x15
    resultLen := BitVec.ofNat 8 q.length, decoded := true, rx := nak, result := q }

/-- The NAK taken: the next attempt's frame is sent. -/
def State.resent (s : State) (sl : SlotId) (rest : List Move) (nak q : List Byte) (c : Byte) : State :=
  (s.nextAttempt .meas sl rest (s.nakFailure nak q c)).sendsFrame (.transact .meas sl .host)

theorem step_nak (h : s.MeasReceiving sl tag)
    (hin : s.inputs = answerMove tag (.bytes nak) :: rest) (hlen : nak.length ≤ s.params.rxCap)
    (hnak : decodeFrame nak = .ok 0x15 q c) (hlt : s.attempts.toNat < s.maxRetries.toNat)
    (hfit : s.cmdLen1.toNat + 3 ≤ s.params.txCap) :
    step s = .next (s.resent sl rest nak q c) := by
  obtain ⟨hcont, hr, hs, htp, -, d, hd, hn⟩ := h
  have hsend : transactAttempt .meas sl .host (s.afterFailed .meas sl rest (s.nakFailure nak q c)) =
      .suspended (s.resent sl rest nak q c) :=
    transactAttempt_sends (s := s.afterFailed .meas sl rest (s.nakFailure nak q c)) (k := .meas)
      (BitVec.lt_def.2 hlt) hfit
  exact step_attempt_fails (.status tag d nak 0x15 q c ⟨hcont, htp, hd, hs, hr, hin⟩ hn hlen hnak nofun)
    (congrArg (transactHost .meas sl) hsend) nofun

/-- The send answered Ok: SENT counted, and the settle interval begun. -/
def State.settling (s : State) (sl : SlotId) (rest : List Move) : State :=
  { s.countSent sl with
    inputs := rest, defer := false, tpReq := none, cont := .querySettle (.transact .meas sl .host)
    sleepUntil := some (s.now + s.params.settleMs.setWidth 64) }

/-- The settle interval over: the receive made. -/
def State.listening (s : State) (sl : SlotId) (rest : List Move) : State :=
  { s with
    inputs := rest, defer := false, now := s.now + BitVec.ofNat 64 s.params.settleMs.toNat
    sleepUntil := none, cont := .queryRecv (.transact .meas sl .host)
    tpReq := some ⟨s.tpSeq, s.recvReq⟩, tpSeq := s.tpSeq + 1, tpLog := s.recvReq :: s.tpLog
    rxDeadline := some (s.now + BitVec.ofNat 64 s.params.settleMs.toNat +
      s.params.rxTimeoutMs.setWidth 64) }

theorem add_lt_of_pos {x y : Time} (hy : y ≠ 0) (hlt : x.toNat + y.toNat < 2 ^ 64) : x < x + y := by
  have hpos : y.toNat ≠ 0 := fun e => hy (BitVec.eq_of_toNat_eq e)
  rw [BitVec.lt_def, BitVec.toNat_add, Nat.mod_eq_of_lt hlt]
  omega

theorem step_sendOk {f : List Byte} (hsettle : s.params.settleMs ≠ 0)
    (h : s.Calls (.querySend (.transact .meas sl .host)) tag (.sendBytes f) (answerMove tag .ok) rest) :
    step s = .next (s.settling sl rest) :=
  step_answer_runs h rfl rfl (congrArg (afterProgress (.transact .meas sl .host))
    (queryAfterSend_settles (s := { s with inputs := rest, defer := false, tpReq := none })
      (.transact .meas sl .host) hsettle)) nofun

theorem stepN_settle (hc : s.cont = .querySettle (.transact .meas sl .host)) (hr : s.resume = none)
    (htp : s.tpReq = none) (hrx : s.rxDeadline = none)
    (hs : s.sleepUntil = some (s.now + s.params.settleMs.setWidth 64))
    (hin : s.inputs = List.replicate s.params.settleMs.toNat tickMove ++ rest)
    (hsettle : s.params.settleMs ≠ 0) (hms : s.params.rxTimeoutMs ≠ 0)
    (hbound : s.now.toNat + s.params.settleMs.toNat < 2 ^ 64) :
    stepN s.params.settleMs.toNat s = .next (s.listening sl rest) := by
  have hspin : s.cont ≠ .spin := by
    rw [hc]
    nofun
  rw [← BitVec.ofNat_toNat] at hs
  exact stepN_sleep (fun e => hsettle (BitVec.eq_of_toNat_eq e)) ⟨hspin, hs, hrx, hr⟩ hc htp hin hbound rfl
    (congrArg (afterProgress (.transact .meas sl .host)) (queryReceive_waits (s := { s with
      inputs := rest, defer := false, now := s.now + BitVec.ofNat 64 s.params.settleMs.toNat
      sleepUntil := none }) (.transact .meas sl .host) hms)) nofun

theorem resent_calls (h : s.MeasReceiving sl tag) {m : Move} :
    (s.resent sl (m :: rest) nak q c).Calls (.querySend (.transact .meas sl .host)) (tag + 1)
      (.sendBytes ((s.nextAttempt .meas sl (m :: rest) (s.nakFailure nak q c)).frameOf
        (.transact .meas sl .host))) m rest where
  cont := rfl
  tpReq := by
    rw [← h.tpSeq]
    rfl
  rxDeadline := rfl
  sleepUntil := h.sleepUntil
  resume := h.resume
  inputs := rfl

theorem resent_slot : (s.resent sl rest nak q c).slot sl =
    { s.slot sl with recv := (s.slot sl).recv + 1, nakc := (s.slot sl).nakc + 1 } :=
  slot_setSlot_same s sl _

theorem settling_slot : (s.settling sl rest).slot sl = { s.slot sl with sent := (s.slot sl).sent + 1 } :=
  slot_setSlot_same s sl _

/-- A retry's send answered Ok, and the settle interval that follows. -/
theorem stepN_sent {f : List Byte}
    (h : s.Calls (.querySend (.transact .meas sl .host)) tag (.sendBytes f) (answerMove tag .ok)
      (List.replicate s.params.settleMs.toNat tickMove ++ rest))
    (hsettle : s.params.settleMs ≠ 0) (hms : s.params.rxTimeoutMs ≠ 0)
    (hbound : s.now.toNat + s.params.settleMs.toNat < 2 ^ 64) :
    stepN (1 + s.params.settleMs.toNat) s = .next ((s.settling sl
      (List.replicate s.params.settleMs.toNat tickMove ++ rest)).listening sl rest) := by
  rw [stepN_add ((stepN_one s).trans (step_sendOk hsettle h))]
  exact stepN_settle (s := s.settling sl _) rfl h.resume rfl h.rxDeadline rfl rfl hsettle hms hbound

/-- Where a retry leads, whatever its schedule. -/
theorem retried_of (h : s.MeasReceiving sl tag) {l ticks : List Move} (hms : s.params.rxTimeoutMs ≠ 0)
    (hbound : s.now.toNat + s.params.settleMs.toNat + s.params.rxTimeoutMs.toNat < 2 ^ 64) :
    s.Retried (((s.resent sl l nak q c).settling sl ticks).listening sl rest) sl tag rest := by
  have hnow : (s.now + BitVec.ofNat 64 s.params.settleMs.toNat).toNat =
      s.now.toNat + s.params.settleMs.toNat := toNat_add_ofNat (by omega)
  have hwidth : (s.params.rxTimeoutMs.setWidth 64 : Time).toNat = s.params.rxTimeoutMs.toNat := by
    rw [BitVec.toNat_setWidth, Nat.mod_eq_of_lt (s.params.rxTimeoutMs.isLt.trans (by decide))]
  have hdeadline : s.now + BitVec.ofNat 64 s.params.settleMs.toNat <
      s.now + BitVec.ofNat 64 s.params.settleMs.toNat + s.params.rxTimeoutMs.setWidth 64 :=
    add_lt_of_pos (setWidth_ne_zero hms) (by rw [hnow, hwidth]; exact hbound)
  exact {
    receiving := {
      cont := rfl
      resume := h.resume
      sleepUntil := rfl
      tpReq := ⟨s.params.rxCap, s.params.rxTimeoutMs, congrArg (fun n => some (Outstanding.mk (n + 1)
        (.recvBytes s.params.rxCap s.params.rxTimeoutMs))) h.tpSeq⟩
      tpSeq := congrArg (· + 2) h.tpSeq
      deadline := ⟨_, rfl, hdeadline⟩ }
    inputs := rfl
    params := rfl
    maxRetries := rfl
    cmdLen1 := rfl
    attempts := rfl
    now := rfl
    slot := by
      have hslot : (((s.resent sl l nak q c).settling sl ticks).listening sl rest).slot sl =
          ((s.resent sl l nak q c).settling sl ticks).slot sl := rfl
      rw [hslot, settling_slot, resent_slot] }

/-- One retry, from receive to receive (R202, R169). -/
theorem stepN_nakRound (h : s.MeasReceiving sl tag)
    (hin : s.inputs = nakRound tag nak s.params.settleMs.toNat ++ rest)
    (hlen : nak.length ≤ s.params.rxCap) (hnak : decodeFrame nak = .ok 0x15 q c)
    (hlt : s.attempts.toNat < s.maxRetries.toNat) (hfit : s.cmdLen1.toNat + 3 ≤ s.params.txCap)
    (hsettle : s.params.settleMs ≠ 0) (hms : s.params.rxTimeoutMs ≠ 0)
    (hbound : s.now.toNat + s.params.settleMs.toNat + s.params.rxTimeoutMs.toNat < 2 ^ 64) :
    ∃ u, stepN (2 + s.params.settleMs.toNat) s = .next u ∧ s.Retried u sl tag rest := by
  have hfirst := step_nak h hin hlen hnak hlt hfit
  have hrest := stepN_sent (rest := rest) (s := s.resent sl (answerMove (tag + 1) .ok ::
    (List.replicate s.params.settleMs.toNat tickMove ++ rest)) nak q c)
    (resent_calls (m := answerMove (tag + 1) .ok) (nak := nak) (q := q) (c := c) h)
    hsettle hms (by show s.now.toNat + s.params.settleMs.toNat < _; omega)
  refine ⟨_, (Nat.add_assoc 1 1 s.params.settleMs.toNat ▸
    (stepN_add ((stepN_one s).trans hfirst)).trans hrest), retried_of h hms hbound⟩

end Round

/-! ### The rounds (R217) -/

section Rounds

variable {s : State} {sl : SlotId} {rest : List Move} {nak ack q p : List Byte} {c c' : Byte}

/-- The measurement ended in success, `n` retries after `s`. -/
structure State.Measured (s t : State) (sl : SlotId) (n : Nat) (p : List Byte) (rest : List Move) :
    Prop where
  eng : t.eng = .ready
  rstate : t.rstate = .succeeded
  attempts : t.attempts = s.attempts + BitVec.ofNat 8 n
  err : t.err = ⟨.none, .none, sl, .meas⟩
  inputs : t.inputs = rest
  nakc : (t.slot sl).nakc = (s.slot sl).nakc + BitVec.ofNat 32 n
  sent : (t.slot sl).sent = (s.slot sl).sent + BitVec.ofNat 32 n
  recv : (t.slot sl).recv = (s.slot sl).recv + BitVec.ofNat 32 (n + 1)
  now : t.now = s.now + BitVec.ofNat 64 (n * s.params.settleMs.toNat)
  ts : (t.slot sl).ts = t.now
  value : t.bytesAt (0xA000 + 256 * sl.toNat) p.length = p

theorem bytesAt_succeeded {b : List Byte} {st : Byte} {k : Kind} :
    (s.succeeded k sl rest b st p c).bytesAt (readingBase k sl) p.length = p :=
  bytesAt_putBytes { s with mem := Memory.setAll s.mem [(0x2000, b), (0x2100, p)] } _ _

/-- The ACK ends the measurement. -/
theorem step_ack {tag : Nat} (h : s.MeasReceiving sl tag)
    (hin : s.inputs = answerMove tag (.bytes ack) :: rest) (hlen : ack.length ≤ s.params.rxCap)
    (hack : decodeFrame ack = .ok 0x06 p c') : ∃ t, step s = .next t ∧ s.Measured t sl 0 p rest := by
  obtain ⟨hcont, hr, hs, htp, -, d, hd, hn⟩ := h
  have hend := complete_slot_none (s.succeeded .meas sl rest ack 0x06 p c') sl .meas
  have hslot := succeeded_slot (s := s) (k := .meas) (sl := sl) (st := 0x06) (b := ack) (p := p)
    (c := c') (rest := rest)
  refine ⟨_, step_succeeds ⟨hcont, htp, hd, hs, hr, hin⟩ hn hlen hack rfl hend nofun, ?_⟩
  exact {
    eng := rfl
    rstate := rfl
    attempts := (BitVec.add_zero s.attempts).symm
    err := rfl
    inputs := rfl
    nakc := (congrArg Slot.nakc hslot).trans (BitVec.add_zero (s.slot sl).nakc).symm
    sent := (congrArg Slot.sent hslot).trans (BitVec.add_zero (s.slot sl).sent).symm
    recv := congrArg Slot.recv hslot
    now := by
      rw [Nat.zero_mul]
      exact (BitVec.add_zero s.now).symm
    ts := congrArg Slot.ts hslot
    value := bytesAt_succeeded (s := s) (k := .meas) (st := 0x06) (c := c') (rest := rest) }

/-- One retry before a measurement that ends after `n` more. -/
theorem State.Measured.after {u t : State} {n : Nat} (hm : u.Measured t sl n p rest)
    (hparams : u.params = s.params) (hatt : u.attempts = s.attempts + 1)
    (hnow : u.now = s.now + BitVec.ofNat 64 s.params.settleMs.toNat)
    (hslot : u.slot sl = { s.slot sl with
      recv := (s.slot sl).recv + 1, nakc := (s.slot sl).nakc + 1, sent := (s.slot sl).sent + 1 }) :
    s.Measured t sl (n + 1) p rest where
  eng := hm.eng
  rstate := hm.rstate
  attempts := by rw [hm.attempts, hatt, add_one_add_ofNat]
  err := hm.err
  inputs := hm.inputs
  nakc := by rw [hm.nakc, hslot, add_one_add_ofNat]
  sent := by rw [hm.sent, hslot, add_one_add_ofNat]
  recv := by rw [hm.recv, hslot, add_one_add_ofNat]
  now := by rw [hm.now, hnow, hparams, BitVec.add_assoc, ← BitVec.ofNat_add, Nat.succ_mul,
    Nat.add_comm s.params.settleMs.toNat]
  ts := hm.ts
  value := hm.value

/-- Rounds of one retry each, and then the ACK. -/
theorem stepN_nakRounds {n tag : Nat} (h : s.MeasReceiving sl tag)
    (hin : s.inputs = nakRounds n tag nak s.params.settleMs.toNat ++
      answerMove (tag + 2 * n) (.bytes ack) :: rest)
    (hlenNak : nak.length ≤ s.params.rxCap) (hlenAck : ack.length ≤ s.params.rxCap)
    (hnak : decodeFrame nak = .ok 0x15 q c) (hack : decodeFrame ack = .ok 0x06 p c')
    (hlt : s.attempts.toNat + n ≤ s.maxRetries.toNat) (hfit : s.cmdLen1.toNat + 3 ≤ s.params.txCap)
    (hsettle : s.params.settleMs ≠ 0) (hms : s.params.rxTimeoutMs ≠ 0)
    (hbound : s.now.toNat + n * s.params.settleMs.toNat + s.params.rxTimeoutMs.toNat < 2 ^ 64) :
    ∃ t, stepN (n * (2 + s.params.settleMs.toNat) + 1) s = .next t ∧ s.Measured t sl n p rest := by
  induction n generalizing s tag with
  | zero =>
    obtain ⟨t, ht, hm⟩ := step_ack h hin hlenAck hack
    refine ⟨t, ?_, hm⟩
    rw [Nat.zero_mul, Nat.zero_add, stepN_one, ht]
  | succ n ih =>
    rw [nakRounds, List.append_assoc] at hin
    rw [Nat.succ_mul] at hbound
    obtain ⟨u, hu, hret⟩ := stepN_nakRound h hin hlenNak hnak (by omega) hfit hsettle hms (by omega)
    obtain ⟨hrec, huin, hparams, hmax, hlen1, hatt, hnow, hslot⟩ := hret
    have hattNat : u.attempts.toNat = s.attempts.toNat + 1 := by
      have := s.maxRetries.isLt
      rw [hatt, BitVec.toNat_add, Nat.mod_eq_of_lt (by simp; omega)]
      rfl
    have hnowNat : u.now.toNat = s.now.toNat + s.params.settleMs.toNat := by
      rw [hnow, toNat_add_ofNat (by omega)]
    obtain ⟨t, ht, hm⟩ := ih (s := u) hrec
      (by rw [huin, hparams, show tag + 2 * (n + 1) = tag + 2 + 2 * n by omega])
      (by rwa [hparams]) (by rwa [hparams]) (by rw [hattNat, hmax]; omega) (by rwa [hlen1, hparams])
      (by rwa [hparams]) (by rwa [hparams]) (by rw [hnowNat, hparams]; omega)
    refine ⟨t, ?_, ?_⟩
    · rw [hparams] at ht
      rw [Nat.succ_mul, show n * (2 + s.params.settleMs.toNat) + (2 + s.params.settleMs.toNat) + 1 =
        (2 + s.params.settleMs.toNat) + (n * (2 + s.params.settleMs.toNat) + 1) by omega, stepN_add hu, ht]
    · exact hm.after hparams hatt hnow hslot

end Rounds

/-- Settles O28: the run starts in a receive of the first attempt, and each NAK leads to a receive of the
next. -/
theorem measurementSucceedsAfterNaks : Obligations.MeasurementSucceedsAfterNaks := by
  unfold Obligations.MeasurementSucceedsAfterNaks
  intro n s sl tag d nak ack q p c c' rest he hc hr hs htp hseq hd hn hatt hmax hfit hsettle hms hbound
    hlenNak hlenAck hnak hack hin
  rw [Nat.succ_mul] at hbound
  obtain ⟨t, ht, hm⟩ := stepN_nakRounds ⟨hc, hr, hs, htp, hseq, d, hd, hn⟩ hin hlenNak hlenAck hnak hack
    (by rw [hatt]; simp; omega) hfit hsettle hms (by omega)
  obtain ⟨heng, hrs, hatts, herr, hinp, hnakc, hsent, hrecv, hnow, hts, hval⟩ := hm
  refine ⟨t, ht, heng, hrs, ?_, herr, hinp, hnakc, hsent, hrecv, ?_, hts, hval⟩
  · rw [hatts, hatt, Nat.add_comm, BitVec.ofNat_add]
    rfl
  · rw [hnow, toNat_add_ofNat (by omega)]

end Sys2Proof.Machine
end

section
/-! PROOFS. Host accesses over the whole address space (R71, R73, R74, R75, R24): what an address names, which
accesses are legal, and what a write to a location of R351 stores. -/

namespace Sys2Proof.Machine

/-! ### The parameters' ranges (R6) -/

theorem wf_bounds {p : Params} (h : p.wf = true) :
    4 ≤ p.txCap ∧ p.txCap ≤ 4096 ∧ 1 ≤ p.rxCap ∧ p.rxCap ≤ 256 ∧ 1 ≤ p.maxSlots ∧ p.maxSlots ≤ 32 ∧
      1 ≤ p.cmdBufCap ∧ p.cmdBufCap ≤ 4096 := by
  simp only [Params.wf, decide_eq_true_eq] at h
  omega

/-! ### What an address names (R71) -/

section Locate

variable {p : Params} {n : Nat}

theorem inRange_iff {a base n : Nat} : inRange a base n = true ↔ base ≤ a ∧ a < base + n := by
  simp only [inRange, decide_eq_true_eq]

/-- The offsets of the registers and parameters: words from 0x00 to 0x70 and from 0x80 to 0x94. -/
theorem Reg.offset_range (r : Reg) :
    r.offset % 4 = 0 ∧ (r.offset < 0x74 ∨ (0x80 ≤ r.offset ∧ r.offset < 0x98)) := by
  cases r <;> decide

theorem exists_offset_eq (k : Fin 38) (h : k.val < 29 ∨ 32 ≤ k.val) :
    (Reg.all.find? fun r => r.offset == 4 * k.val).isSome = true := by
  revert k
  decide

theorem exists_reg_iff : (∃ r : Reg, r.offset = n) ↔
    n % 4 = 0 ∧ (n < 0x74 ∨ (0x80 ≤ n ∧ n < 0x98)) := by
  constructor
  · rintro ⟨r, rfl⟩
    exact r.offset_range
  · rintro ⟨h4, hn⟩
    have hk := exists_offset_eq ⟨n / 4, by omega⟩ (by simp only; omega)
    obtain ⟨r, hr⟩ := Option.isSome_iff_exists.1 hk
    refine ⟨r, ?_⟩
    have ho : r.offset = 4 * (n / 4) := by simpa using List.find?_some hr
    omega

theorem locate_low (h : n < 0x100) (hno : ¬ ∃ r : Reg, r.offset = n) : locate p n = .unmapped := by
  rw [locate, if_pos h]
  cases hf : Reg.all.find? fun r => r.offset == n with
  | none => rfl
  | some r => exact absurd ⟨r, by simpa using List.find?_some hf⟩ hno

theorem locate_addrTable (h : 0x100 ≤ n ∧ n < 0x100 + p.maxSlots) :
    locate p n = .addrTable (n - 0x100) := by
  rw [locate, if_neg (by omega), if_pos (inRange_iff.2 h)]

theorem locate_counters (hwf : p.wf = true) (h : 0x200 ≤ n ∧ n < 0x200 + 16 * p.maxSlots)
    (h4 : n % 4 = 0) : locate p n = .counters (BitVec.ofNat 5 ((n - 0x200) / 16)) (n % 16 / 4) := by
  have hb := wf_bounds hwf
  rw [locate, if_neg (by omega), if_neg (by rw [inRange_iff]; omega), if_pos (inRange_iff.2 h), if_pos h4]

theorem locate_reading (hwf : p.wf = true) (h : 0x400 ≤ n ∧ n < 0x400 + 16 * p.maxSlots)
    (h4 : n % 4 = 0) : locate p n = .reading (BitVec.ofNat 5 ((n - 0x400) / 16)) (n % 16 / 4) := by
  have hb := wf_bounds hwf
  rw [locate, if_neg (by omega), if_neg (by rw [inRange_iff]; omega), if_neg (by rw [inRange_iff]; omega),
    if_pos (inRange_iff.2 h), if_pos h4]

theorem inRange_false {base m : Nat} (h : n < base) : inRange n base m = false := by
  rw [← Bool.not_eq_true, inRange_iff]
  omega

/-- Below the buffers there are ADDR_TABLE and the slot words. -/
theorem locate_middle (h1 : 0x100 ≤ n) (h2 : n < 0x1000) : locate p n =
    if inRange n 0x100 p.maxSlots then .addrTable (n - 0x100)
    else if inRange n 0x200 (16 * p.maxSlots) then
      if n % 4 = 0 then .counters (BitVec.ofNat 5 ((n - 0x200) / 16)) (n % 16 / 4) else .unmapped
    else if inRange n 0x400 (16 * p.maxSlots) then
      if n % 4 = 0 then .reading (BitVec.ofNat 5 ((n - 0x400) / 16)) (n % 16 / 4) else .unmapped
    else .unmapped := by
  rw [locate, if_neg (Nat.not_lt.2 h1), inRange_false (base := txBase) h2,
    inRange_false (base := rxBase) (h2.trans (by decide)),
    inRange_false (base := resultBase) (h2.trans (by decide)),
    inRange_false (base := cmdBase .sn) (h2.trans (by decide)),
    inRange_false (base := cmdBase .meas) (h2.trans (by decide)),
    inRange_false (base := 0x8000) (h2.trans (by decide)),
    inRange_false (base := 0xA000) (h2.trans (by decide))]
  rfl

/-- Between ADDR_TABLE and the slot words, and off their words, nothing is mapped. -/
theorem locate_middle_unmapped (h1 : 0x100 ≤ n) (h2 : n < 0x1000)
    (haddr : ¬ (0x100 ≤ n ∧ n < 0x100 + p.maxSlots))
    (h : (¬ (0x200 ≤ n ∧ n < 0x200 + 16 * p.maxSlots) ∧ ¬ (0x400 ≤ n ∧ n < 0x400 + 16 * p.maxSlots)) ∨
      n % 4 ≠ 0) : locate p n = .unmapped := by
  rw [locate_middle h1 h2]
  simp only [inRange_iff, if_neg haddr]
  rcases h with ⟨hcount, hread⟩ | h4
  · rw [if_neg hcount, if_neg hread]
  · simp only [if_neg h4, ite_self]

/-- From 0x600 on there are only the buffers. -/
theorem locate_high (hwf : p.wf = true) (h : 0x600 ≤ n) : locate p n =
    if inRange n 0x1000 p.txCap then .buf .tx (n - 0x1000)
    else if inRange n 0x2000 p.rxCap then .buf .rx (n - 0x2000)
    else if inRange n 0x2100 p.rxCap then .buf .result (n - 0x2100)
    else if inRange n 0x3000 p.cmdBufCap then .buf (.cmd .sn) (n - 0x3000)
    else if inRange n 0x4000 p.cmdBufCap then .buf (.cmd .meas) (n - 0x4000)
    else if inRange n 0x8000 (256 * p.maxSlots) then
      .buf (.serial (BitVec.ofNat 5 ((n - 0x8000) / 256))) (n % 256)
    else if inRange n 0xA000 (256 * p.maxSlots) then
      .buf (.value (BitVec.ofNat 5 ((n - 0xA000) / 256))) (n % 256)
    else .unmapped := by
  have hb := wf_bounds hwf
  rw [locate, if_neg (by omega), if_neg (by rw [inRange_iff]; omega), if_neg (by rw [inRange_iff]; omega),
    if_neg (by rw [inRange_iff]; omega)]
  rfl

theorem locate_rx (hwf : p.wf = true) (h : 0x2000 ≤ n ∧ n < 0x2000 + p.rxCap) :
    locate p n = .buf .rx (n - 0x2000) := by
  have hb := wf_bounds hwf
  rw [locate_high hwf (by omega), if_neg (by rw [inRange_iff]; omega), if_pos (inRange_iff.2 h)]

theorem locate_cmd (hwf : p.wf = true) (k : Kind) (h : cmdBase k ≤ n ∧ n < cmdBase k + p.cmdBufCap) :
    locate p n = .buf (.cmd k) (n - cmdBase k) := by
  have hb := wf_bounds hwf
  have hlow : 0x3000 ≤ n := Nat.le_trans (by cases k <;> decide) h.1
  rw [locate_high hwf (by omega), if_neg (by rw [inRange_iff]; omega), if_neg (by rw [inRange_iff]; omega),
    if_neg (by rw [inRange_iff]; omega)]
  cases k with
  | sn => exact if_pos (inRange_iff.2 h)
  | meas =>
    simp only [cmdBase] at h
    rw [if_neg (by rw [inRange_iff]; omega), if_pos (inRange_iff.2 h)]
    rfl

end Locate

/-! ### Which accesses are legal (R73, R74) -/

section Legal

variable {p : Params} {n : Nat} {w : Width}

/-- The accesses R71 and R73 give a meaning. -/
def Accessible (p : Params) (n : Nat) (w : Width) : Prop :=
  mappedAddr p n ∧ widthAllowed n w ∧ n % w.bytes = 0

/-- Below ADDR_TABLE: words of the registers and parameters. -/
theorem takes_low (h : n < 0x100) : (locate p n).takes n w = true ↔ Accessible p n w := by
  have hmapped : mappedAddr p n ↔ n < 0x74 ∨ (0x80 ≤ n ∧ n < 0x98) := by
    simp only [mappedAddr, covers]
    omega
  have hwidth : widthAllowed n w ↔ w = .word := by
    simp only [widthAllowed]
    exact ⟨fun hw => hw.1 h, fun hw => ⟨fun _ => hw, by omega, by omega⟩⟩
  rw [Accessible, hmapped, hwidth]
  by_cases hreg : ∃ r : Reg, r.offset = n
  · obtain ⟨h4, hn⟩ := exists_reg_iff.1 hreg
    obtain ⟨r, rfl⟩ := hreg
    rw [locate_offset]
    simp only [Loc.takes, decide_eq_true_eq]
    refine ⟨fun hw => ⟨hn, hw, ?_⟩, fun hw => hw.2.1⟩
    subst hw
    exact h4
  · rw [locate_low h hreg]
    refine ⟨nofun, fun ⟨hn, hw, h4⟩ => absurd (exists_reg_iff.2 ⟨?_, hn⟩) hreg⟩
    subst hw
    exact h4

/-- ADDR_TABLE takes bytes and aligned words. -/
theorem takes_addrTable (h : 0x100 ≤ n ∧ n < 0x100 + p.maxSlots) (hlt : n < 0x200) :
    (locate p n).takes n w = true ↔ Accessible p n w := by
  have hmapped : mappedAddr p n := .inr (.inr (.inl h))
  have hwidth : widthAllowed n w ↔ w ≠ .half :=
    ⟨fun hw => hw.2.1 h.1 hlt, fun hw => ⟨by omega, fun _ _ => hw, by omega⟩⟩
  rw [locate_addrTable h, Accessible, hwidth, and_iff_right hmapped]
  cases w with
  | byte => simp [Loc.takes, Width.bytes, Nat.mod_one]
  | half => simp [Loc.takes]
  | word => simp [Loc.takes, Width.bytes]

theorem takes_gap (hwf : p.wf = true) (h : 0x100 + p.maxSlots ≤ n) (h1 : 0x100 ≤ n) (h2 : n < 0x200) :
    (locate p n).takes n w = true ↔ Accessible p n w := by
  have hb := wf_bounds hwf
  have hmapped : ¬ mappedAddr p n := by
    simp only [mappedAddr, covers]
    omega
  rw [locate_middle_unmapped h1 (by omega) (by omega) (.inl ⟨by omega, by omega⟩)]
  exact ⟨nofun, fun ha => absurd ha.1 hmapped⟩

/-- The slot words take aligned words. -/
theorem takes_slotWord (hwf : p.wf = true) (hlo : 0x200 ≤ n) (hhi : n < 0x600) :
    (locate p n).takes n w = true ↔ Accessible p n w := by
  have hb := wf_bounds hwf
  have hmapped : mappedAddr p n ↔ (0x200 ≤ n ∧ n < 0x200 + 16 * p.maxSlots) ∨
      (0x400 ≤ n ∧ n < 0x400 + 16 * p.maxSlots) := by
    simp only [mappedAddr, covers]
    omega
  have hwidth : widthAllowed n w ↔ w = .word :=
    ⟨fun hw => hw.2.2 hlo hhi, fun hw => ⟨by omega, by omega, fun _ _ => hw⟩⟩
  rw [Accessible, hmapped, hwidth]
  by_cases h4 : n % 4 = 0
  · have hword : (w = .word ∧ n % w.bytes = 0) ↔ w = .word := by
      refine ⟨And.left, fun hw => ⟨hw, ?_⟩⟩
      subst hw
      exact h4
    rw [hword]
    by_cases hcount : 0x200 ≤ n ∧ n < 0x200 + 16 * p.maxSlots
    · simp [locate_counters hwf hcount h4, Loc.takes, hcount]
    · by_cases hread : 0x400 ≤ n ∧ n < 0x400 + 16 * p.maxSlots
      · simp [locate_reading hwf hread h4, Loc.takes, hread]
      · have hl : locate p n = .unmapped :=
          locate_middle_unmapped (by omega) (by omega) (by omega) (.inl ⟨hcount, hread⟩)
        simp [hl, Loc.takes, hcount, hread]
  · have hno : ¬ (w = .word ∧ n % w.bytes = 0) := by
      rintro ⟨rfl, hw⟩
      exact h4 hw
    have hl : locate p n = .unmapped :=
      locate_middle_unmapped (by omega) (by omega) (by omega) (.inr h4)
    simp [hl, Loc.takes, hno]

/-- From 0x600 on an address names a buffer's byte exactly if it is mapped. -/
theorem locate_high_of_mapped (hwf : p.wf = true) (h : 0x600 ≤ n) (hm : mappedAddr p n) :
    ∃ b off, locate p n = .buf b off := by
  have hb := wf_bounds hwf
  simp only [mappedAddr, covers] at hm
  rw [locate_high hwf h]
  simp only [inRange_iff]
  split_ifs
  case neg => omega
  all_goals exact ⟨_, _, rfl⟩

theorem locate_high_unmapped (hwf : p.wf = true) (h : 0x600 ≤ n) (hm : ¬ mappedAddr p n) :
    locate p n = .unmapped := by
  simp only [mappedAddr, covers, not_or] at hm
  obtain ⟨-, -, -, -, -, htx, hrx, hres, hsn, hmeas, hserial, hvalue⟩ := hm
  rw [locate_high hwf h]
  simp only [inRange_iff, if_neg htx, if_neg hrx, if_neg hres, if_neg hsn, if_neg hmeas, if_neg hserial,
    if_neg hvalue]

/-- The buffers take every aligned access. -/
theorem takes_high (hwf : p.wf = true) (h : 0x600 ≤ n) :
    (locate p n).takes n w = true ↔ Accessible p n w := by
  have hwidth : widthAllowed n w := ⟨by omega, by omega, by omega⟩
  by_cases hm : mappedAddr p n
  · obtain ⟨b, off, hl⟩ := locate_high_of_mapped hwf h hm
    simp [hl, Loc.takes, Accessible, hm, hwidth]
  · simp [locate_high_unmapped hwf h hm, Loc.takes, Accessible, hm]

/-- The legal accesses are those to a mapped address, of a width it takes, aligned (R74). -/
theorem legal_iff (hwf : p.wf = true) (a : HostAddr) (w : Width) :
    legal p a w = true ↔ Accessible p a.toNat w := by
  have hb := wf_bounds hwf
  unfold legal
  rcases Nat.lt_or_ge a.toNat 0x100 with h1 | h1
  · exact takes_low h1
  · rcases Nat.lt_or_ge a.toNat 0x200 with h2 | h2
    · by_cases hs : a.toNat < 0x100 + p.maxSlots
      · exact takes_addrTable ⟨h1, hs⟩ h2
      · exact takes_gap hwf (Nat.not_lt.1 hs) h1 h2
    · rcases Nat.lt_or_ge a.toNat 0x600 with h6 | h6
      · exact takes_slotWord hwf h2 h6
      · exact takes_high hwf h6

end Legal

/-- Settles O56: an illegal access is all that `memRead`, `afterMemRead` and `memWrite` do nothing for, and the
legal ones are those R71 and R73 list. -/
theorem accessErrorsPerformNothing : Obligations.AccessErrorsPerformNothing := by
  unfold Obligations.AccessErrorsPerformNothing
  intro s a w v hwf
  refine ⟨fun hbad => ?_, fun hm hw ha => ?_⟩
  · have hno : ¬ legal s.params a w = true := by
      rw [legal_iff hwf]
      rintro ⟨hm, hw, ha⟩
      rcases hbad with h | h | h
      exacts [h hm, h hw, h ha]
    exact ⟨if_neg hno, if_neg hno, if_neg hno⟩
  · have hok : legal s.params a w = true := (legal_iff hwf a w).2 ⟨hm, hw, ha⟩
    rcases afterMemRead_cases s a w with ⟨hno, -⟩ | ⟨-, ⟨-, h⟩ | ⟨-, h⟩ | ⟨-, h⟩ | h⟩
    · rw [hok] at hno
      cases hno
    all_goals rw [h]

end Sys2Proof.Machine
end

section
/-! PROOFS. What host accesses store and return (R24, R49, R74, R75, R351): the writable locations, and the
bytes of a word. -/

namespace Sys2Proof.Machine

/-! ### Writes to the locations of R351 -/

section Writable

variable {s : State} {a : HostAddr} {w : Width} {v : Word}

theorem memWrite_of_locked (hlegal : legal s.params a w = true)
    (hrwl : (locate s.params a.toNat).rwl = true) (he : s.eng ≠ .ready) :
    s.memWrite a w v = { s with accessErr := true } := by
  rw [State.memWrite, if_pos hlegal, if_pos (by rw [hrwl, locked_of_not_ready he]; rfl)]

theorem not_locked (he : s.eng = .ready) : s.locked = false := by
  simp [State.locked, State.busy, State.schedActive, State.isHalted, he]

theorem memWrite_reg_ready (s : State) (he : s.eng = .ready) {r : Reg} (h : a.toNat = r.offset) (v : Word) :
    s.memWrite a .word v = s.writeReg v r :=
  memWrite_reg s h v (by rw [not_locked he, Bool.and_false])

theorem rwlRegisters_eq : rwlRegisters =
    [Reg.maxRetries, .minScanDelay, .scanCount, .numAddr, .cmdLen0, .cmdLen1, .rxLen].map
      fun r => BitVec.ofNat 16 r.offset := rfl

/-- Each address of `rwlRegisters` is that of an RWL register. -/
theorem exists_rwl_register (h : a ∈ rwlRegisters) : ∃ r : Reg, a.toNat = r.offset ∧ r.rwl = true := by
  rw [rwlRegisters_eq] at h
  obtain ⟨r, hr, rfl⟩ := List.mem_map.1 h
  have hlt := r.offset_lt
  refine ⟨r, by rw [BitVec.toNat_ofNat, Nat.mod_eq_of_lt (by omega)], ?_⟩
  revert r
  decide

/-- Each of `rwlBuffers` is an RWL buffer, which the map names at its own addresses. -/
theorem exists_rwl_buffer {p : Params} {b n : Nat} (hwf : p.wf = true) (h : (b, n) ∈ rwlBuffers p) :
    ∃ buf : Buf, buf.rwl = true ∧ buf.base = b ∧ buf.size p = n ∧
      ∀ x, covers x b n → locate p x = .buf buf (x - b) := by
  simp only [rwlBuffers, List.mem_cons, List.not_mem_nil, or_false, Prod.mk.injEq] at h
  rcases h with ⟨rfl, rfl⟩ | ⟨rfl, rfl⟩ | ⟨rfl, rfl⟩
  · exact ⟨.rx, rfl, rfl, rfl, fun x hx => locate_rx hwf hx⟩
  · exact ⟨.cmd .sn, rfl, rfl, rfl, fun x hx => locate_cmd hwf .sn hx⟩
  · exact ⟨.cmd .meas, rfl, rfl, rfl, fun x hx => locate_cmd hwf .meas hx⟩

theorem legal_addrTable (ha : covers a.toNat 0x100 s.params.maxSlots) (hw : w ≠ .half)
    (halign : a.toNat % w.bytes = 0) : legal s.params a w = true := by
  rw [legal, locate_addrTable ha]
  cases w with
  | byte => rfl
  | half => exact absurd rfl hw
  | word => exact decide_eq_true halign

theorem legal_buffer {buf : Buf} {off : Nat} (hl : locate s.params a.toNat = .buf buf off)
    (halign : a.toNat % w.bytes = 0) : legal s.params a w = true := by
  rw [legal, hl]
  exact decide_eq_true halign

theorem memWrite_addrTable (ha : covers a.toNat 0x100 s.params.maxSlots) (hw : w ≠ .half)
    (halign : a.toNat % w.bytes = 0) (he : s.eng = .ready) : s.memWrite a w v =
      s.putAddrs (a.toNat - 0x100) (storedBytes v w (s.params.maxSlots - (a.toNat - 0x100))) := by
  rw [State.memWrite, if_pos (legal_addrTable ha hw halign), locate_addrTable ha, not_locked he]
  rfl

theorem memWrite_buffer {buf : Buf} {off : Nat} (hl : locate s.params a.toNat = .buf buf off)
    (hrwl : buf.rwl = true) (halign : a.toNat % w.bytes = 0) (he : s.eng = .ready) :
    s.memWrite a w v = s.putBytes (buf.base + off) (storedBytes v w (buf.size s.params - off)) := by
  rw [State.memWrite, if_pos (legal_buffer hl halign), hl, not_locked he]
  simp only [Bool.and_false, Bool.false_eq_true, if_false, hrwl, if_true]

/-! ### The bytes a write stores (R74, R75) -/

theorem length_storedBytes (v : Word) (w : Width) (room : Nat) :
    (storedBytes v w room).length = min w.bytes room := by
  simp [storedBytes]

theorem getElem_storedBytes {room j : Nat} (h : j < (storedBytes v w room).length) :
    (storedBytes v w room)[j] = v.extractLsb' (8 * j) 8 := by
  simp [storedBytes, byteOf]

/-- What a slot's bus address is after an ADDR_TABLE write: the value's byte that falls on it, if one does. -/
theorem slot_putAddrs_stored (s : State) (hwf : s.params.wf = true)
    (ha : covers a.toNat 0x100 s.params.maxSlots) (j : SlotId) :
    (s.putAddrs (a.toNat - 0x100) (storedBytes v w (s.params.maxSlots - (a.toNat - 0x100)))).slot j =
      { s.slot j with
        addr := if a.toNat ≤ 0x100 + j.toNat ∧ 0x100 + j.toNat < a.toNat + w.bytes ∧
            j.toNat < s.params.maxSlots
          then v.extractLsb' (8 * (0x100 + j.toNat - a.toNat)) 8 else (s.slot j).addr } := by
  have hb := wf_bounds hwf
  obtain ⟨hlo, hhi⟩ := ha
  have hlen := length_storedBytes v w (s.params.maxSlots - (a.toNat - 0x100))
  rw [slot_putAddrs s _ _ (by omega)]
  refine congrArg (fun b => { s.slot j with addr := b }) ?_
  by_cases hj : a.toNat ≤ 0x100 + j.toNat ∧ 0x100 + j.toNat < a.toNat + w.bytes ∧ j.toNat < s.params.maxSlots
  · have hk : j.toNat - (a.toNat - 0x100) = 0x100 + j.toNat - a.toNat := by omega
    rw [if_pos hj, dif_pos (by omega), getElem_storedBytes, hk]
  · rw [if_neg hj, dif_neg (by omega)]

/-- What a byte reads after a buffer write: the value's byte that falls on it, if one does. -/
theorem byteAt_putBytes_stored (s : State) {base n : Nat} (ha : covers a.toNat base n) (x : Nat) :
    (s.putBytes (base + (a.toNat - base)) (storedBytes v w (n - (a.toNat - base)))).byteAt x =
      if a.toNat ≤ x ∧ x < a.toNat + w.bytes ∧ x < base + n then v.extractLsb' (8 * (x - a.toNat)) 8
      else s.byteAt x := by
  obtain ⟨hlo, hhi⟩ := ha
  have hlen := length_storedBytes v w (n - (a.toNat - base))
  rw [Nat.add_sub_cancel' hlo]
  by_cases hx : a.toNat ≤ x ∧ x < a.toNat + w.bytes ∧ x < base + n
  · obtain ⟨j, rfl⟩ := Nat.exists_eq_add_of_le hx.1
    rw [if_pos hx, byteAt_putBytes_in s _ j _ (by omega), getElem_storedBytes, Nat.add_sub_cancel_left]
  · rw [if_neg hx, byteAt_putBytes_out]
    omega

end Writable

/-- Settles O54: the lock decides, and in READY each location stores the bytes that fall on it. -/
theorem lockedWritesIgnored : Obligations.LockedWritesIgnored := by
  unfold Obligations.LockedWritesIgnored
  intro s v hwf
  refine ⟨fun he => ⟨fun a ha => ?_, fun a w ha hw halign => ?_, fun a w b n hb ha halign => ?_⟩,
    fun he => ⟨?_, ?_, ?_, ?_, ?_, ?_, ?_, fun a w ha hw halign => ⟨?_, fun j => ?_⟩,
      fun a w b n hb ha halign => ⟨?_, fun x => ?_⟩⟩⟩
  · obtain ⟨r, hr, hrwl⟩ := exists_rwl_register ha
    refine memWrite_of_locked (legal_reg_word hr _) ?_ he
    rw [hr, locate_offset]
    exact hrwl
  · refine memWrite_of_locked (legal_addrTable ha hw halign) ?_ he
    rw [locate_addrTable ha]
    rfl
  · obtain ⟨buf, hrwl, -, -, hl⟩ := exists_rwl_buffer hwf hb
    refine memWrite_of_locked (legal_buffer (hl _ ha) halign) ?_ he
    rw [hl _ ha]
    exact hrwl
  · exact memWrite_reg_ready s he (r := .maxRetries) rfl v
  · exact memWrite_reg_ready s he (r := .minScanDelay) rfl v
  · exact memWrite_reg_ready s he (r := .scanCount) rfl v
  · exact memWrite_reg_ready s he (r := .numAddr) rfl v
  · exact memWrite_reg_ready s he (r := .cmdLen0) rfl v
  · exact memWrite_reg_ready s he (r := .cmdLen1) rfl v
  · exact memWrite_reg_ready s he (r := .rxLen) rfl v
  · rw [memWrite_addrTable ha hw halign he]
    exact (putAddrs_frame s _ _).1
  · rw [memWrite_addrTable ha hw halign he]
    exact slot_putAddrs_stored s hwf ha j
  · obtain ⟨buf, hrwl, -, -, hl⟩ := exists_rwl_buffer hwf hb
    rw [memWrite_buffer (hl _ ha) hrwl halign he]
    rfl
  · obtain ⟨buf, hrwl, rfl, rfl, hl⟩ := exists_rwl_buffer hwf hb
    rw [memWrite_buffer (hl _ ha) hrwl halign he]
    exact byteAt_putBytes_stored s ha x

/-! ### Words of a buffer (R75) -/

/-- A byte below the bits `y` of a word. -/
theorem setWidth_append_byte {n : Nat} (y : BitVec n) (b : Byte) :
    b.setWidth 32 ||| y.setWidth 32 <<< 8 = (y ++ b).setWidth 32 := by
  apply BitVec.eq_of_getLsbD_eq
  intro i hi
  simp only [BitVec.getLsbD_or, BitVec.getLsbD_shiftLeft, BitVec.getLsbD_setWidth, BitVec.getLsbD_append]
  by_cases hlow : i < 8
  · simp [hlow]
  · simp [hlow, BitVec.getLsbD_of_ge b i (Nat.not_lt.1 hlow), (by omega : i - 8 < 32)]

theorem leValue_word (b0 b1 b2 b3 : Byte) : leValue [b0, b1, b2, b3] = b3 ++ b2 ++ b1 ++ b0 := by
  have htop : b3.setWidth 32 ||| (0 : Word) <<< 8 = b3.setWidth 32 := by simp
  simp only [leValue]
  rw [htop, setWidth_append_byte, setWidth_append_byte, setWidth_append_byte]
  exact BitVec.setWidth_eq _

/-- A word is its four bytes. -/
theorem append_bytes (v : Word) : v.extractLsb' 24 8 ++ v.extractLsb' 16 8 ++ v.extractLsb' 8 8 ++
    v.extractLsb' 0 8 = v := by
  rw [BitVec.extractLsb'_append_extractLsb'_eq_extractLsb' (by rfl),
    BitVec.extractLsb'_append_extractLsb'_eq_extractLsb' (by rfl),
    BitVec.extractLsb'_append_extractLsb'_eq_extractLsb' (by rfl)]
  exact BitVec.extractLsb'_eq_self

/-- The bytes of an access that ends inside its buffer. -/
theorem bufBytes_of_fits {s : State} (b : Buf) {off : Nat} {w : Width} (h : off + w.bytes ≤ b.size s.params) :
    s.bufBytes b off w = (List.range w.bytes).map fun j => s.byteAt (b.base + (off + j)) :=
  List.map_congr_left fun j hj => if_pos (by have := List.mem_range.1 hj; omega)

section BufferWord

variable {s : State} {n : Nat}

theorem toNat_rxWord (hwf : s.params.wf = true) (hn : 4 * n + 4 ≤ s.params.rxCap) :
    (BitVec.ofNat 16 (0x2000 + 4 * n)).toNat = 0x2000 + 4 * n := by
  have hb := wf_bounds hwf
  rw [BitVec.toNat_ofNat, Nat.mod_eq_of_lt (by omega)]

theorem memRead_rxWord (hwf : s.params.wf = true) (hn : 4 * n + 4 ≤ s.params.rxCap) :
    s.memRead (BitVec.ofNat 16 (0x2000 + 4 * n)) .word =
      s.byteAt (0x2000 + 4 * n + 3) ++ s.byteAt (0x2000 + 4 * n + 2) ++
        s.byteAt (0x2000 + 4 * n + 1) ++ s.byteAt (0x2000 + 4 * n) := by
  have ha := toNat_rxWord hwf hn
  have hl : locate s.params (BitVec.ofNat 16 (0x2000 + 4 * n)).toNat = .buf .rx (4 * n) := by
    rw [ha, locate_rx hwf (by omega), Nat.add_sub_cancel_left]
  have halign : (BitVec.ofNat 16 (0x2000 + 4 * n)).toNat % Width.word.bytes = 0 := by
    rw [ha, Width.bytes]
    omega
  have hbytes : s.bufBytes .rx (4 * n) .word = [s.byteAt (0x2000 + 4 * n), s.byteAt (0x2000 + 4 * n + 1),
      s.byteAt (0x2000 + 4 * n + 2), s.byteAt (0x2000 + 4 * n + 3)] := by
    refine (bufBytes_of_fits .rx (by rw [Buf.size, Width.bytes]; omega)).trans rfl
  rw [State.memRead, if_pos (legal_buffer hl halign), hl]
  exact (congrArg leValue hbytes).trans (leValue_word _ _ _ _)

theorem byteAt_memWrite_rxWord (hwf : s.params.wf = true) (hn : 4 * n + 4 ≤ s.params.rxCap)
    (he : s.eng = .ready) (v : Word) (x : Nat) :
    (s.memWrite (BitVec.ofNat 16 (0x2000 + 4 * n)) .word v).byteAt x =
      if 0x2000 + 4 * n ≤ x ∧ x < 0x2000 + 4 * n + 4 then v.extractLsb' (8 * (x - (0x2000 + 4 * n))) 8
      else s.byteAt x := by
  have ha := toNat_rxWord hwf hn
  have hin : covers (BitVec.ofNat 16 (0x2000 + 4 * n)).toNat 0x2000 s.params.rxCap := by
    rw [ha]
    exact ⟨by omega, by omega⟩
  have halign : (BitVec.ofNat 16 (0x2000 + 4 * n)).toNat % Width.word.bytes = 0 := by
    rw [ha, Width.bytes]
    omega
  rw [memWrite_buffer (locate_rx hwf hin) rfl halign he]
  refine (byteAt_putBytes_stored s hin x).trans ?_
  rw [ha]
  exact if_congr (by simp only [Width.bytes]; omega) rfl rfl

end BufferWord

/-- Settles O55: the word read is the four bytes, and the word written leaves its own four there. -/
theorem bufferWordsAreLittleEndian : Obligations.BufferWordsAreLittleEndian := by
  unfold Obligations.BufferWordsAreLittleEndian
  intro s n v hwf hn
  refine ⟨memRead_rxWord hwf hn, fun he => ⟨?_, fun a ha => ?_⟩⟩
  · rw [memRead_rxWord (by rw [memWrite_params]; exact hwf) (by rw [memWrite_params]; exact hn)]
    have hbyte (j : Nat) (hj : j < 4) :
        (s.memWrite (BitVec.ofNat 16 (0x2000 + 4 * n)) .word v).byteAt (0x2000 + 4 * n + j) =
          v.extractLsb' (8 * j) 8 := by
      rw [byteAt_memWrite_rxWord hwf hn he, if_pos (by omega), Nat.add_sub_cancel_left]
    rw [hbyte 3 (by decide), hbyte 2 (by decide), hbyte 1 (by decide)]
    refine Eq.trans ?_ (append_bytes v)
    exact congrArg _ (hbyte 0 (by decide))
  · rw [byteAt_memWrite_rxWord hwf hn he, if_neg (by omega)]

end Sys2Proof.Machine
end

section
/-! PROOFS. The fields of the result registers and of the slot words (R26 to R30, R32, R47). -/

namespace Sys2Proof.Machine

/-! ### The registers' words -/

section RegisterWords

variable (s : State)

/-- STATUS's flags, and its bits that are not listed (R26). -/
theorem statusWord_bits :
    s.statusWord.getLsbD 0 = decide (s.eng = .cmd) ∧ s.statusWord.getLsbD 1 = decide (s.eng = .sched) ∧
    s.statusWord.getLsbD 2 = s.tpOpen ∧ s.statusWord.getLsbD 3 = s.txValid ∧
    s.statusWord.getLsbD 4 = s.recPend ∧ s.statusWord.getLsbD 5 = decide (s.eng = .halted) ∧
    s.statusWord.getLsbD 6 = s.lastValid ∧ s.statusWord.getLsbD 7 = s.unbounded ∧
    s.statusWord.getLsbD 11 = false ∧ s.statusWord.getLsbD 15 = false := by
  simp only [State.statusWord, BitVec.getLsbD_append]
  simp [State.busy, State.schedActive, State.isHalted]

/-- STATUS's fields of more than one bit (R26). -/
theorem statusWord_fields :
    s.statusWord.extractLsb' 8 3 = s.rstate.bits ∧ s.statusWord.extractLsb' 12 3 = s.sstate.bits ∧
    s.statusWord.extractLsb' 16 5 = s.curSlot ∧ s.statusWord.extractLsb' 21 3 = 0#3 ∧
    s.statusWord.extractLsb' 24 8 = s.attempts := by
  simp (disch := decide) only [State.statusWord, BitVec.extractLsb'_append_eq_of_le,
    BitVec.extractLsb'_append_eq_right, BitVec.extractLsb'_eq_self, Nat.reduceSub, and_self]

/-- ERR's word has the fields of an event word (R29, R306). -/
theorem errWord_eq_eventWord :
    s.errWord = eventWord s.err.code s.err.last.byte s.err.slot s.err.kind := rfl

/-- The fields of a word of two bytes above which every bit is 0: REJ and CHK (R30, R32). -/
theorem zeros_append_bytes (hi lo : Byte) :
    (0#16 ++ hi ++ lo : Word).extractLsb' 0 8 = lo ∧ (0#16 ++ hi ++ lo : Word).extractLsb' 8 8 = hi ∧
    (0#16 ++ hi ++ lo : Word) &&& 0xFFFF0000 = 0 := by
  have hmask : (0xFFFF0000 : Word) = 0xFFFF#16 ++ 0#8 ++ 0#8 := rfl
  refine ⟨BitVec.extractLsb'_append_eq_right, ?_, ?_⟩
  · rw [BitVec.extractLsb'_append_eq_of_le (by decide)]
    exact BitVec.extractLsb'_append_eq_right
  · rw [hmask, BitVec.and_append, BitVec.and_append, BitVec.zero_and, BitVec.and_zero, BitVec.and_zero]
    rfl

end RegisterWords

/-! ### The slot words (R47) -/

section SlotWords

variable (x : Slot)

theorem retryWord_fields :
    x.retryWord.extractLsb' 0 8 = x.snAtt ∧ x.retryWord.extractLsb' 8 8 = x.measAtt ∧
    x.retryWord.extractLsb' 16 3 = x.snRState.bits ∧ x.retryWord.extractLsb' 20 3 = x.measRState.bits := by
  simp (disch := decide) only [Slot.retryWord, BitVec.extractLsb'_append_eq_of_le,
    BitVec.extractLsb'_append_eq_right, Nat.reduceSub, and_self]

/-- The mask of the bits that RETRY does not list, field by field. -/
theorem retryWord_zeros : x.retryWord &&& 0xFF880000 = 0 := by
  have hmask : (0xFF880000 : Word) = 0x1FF#9 ++ 0#3 ++ 1#1 ++ 0#3 ++ 0#8 ++ 0#8 := rfl
  rw [Slot.retryWord, hmask]
  iterate 5 rw [BitVec.and_append]
  simp only [BitVec.zero_and, BitVec.and_zero]
  rfl

variable {s : State} {a : HostAddr} {sl : SlotId} {i : Nat}

theorem toNat_slotWord (base : HostAddr) (hb : base.toNat < 0x1000) (sl : SlotId) :
    (base + 16 * sl.setWidth 16).toNat = base.toNat + 16 * sl.toNat := by
  bv_omega

theorem memRead_counters (hwf : s.params.wf = true) (hsl : sl.toNat < s.params.maxSlots) (hi : i < 4)
    (ha : a.toNat = 0x200 + 4 * i + 16 * sl.toNat) : s.memRead a .word = (s.slot sl).counterWord i := by
  have hslot : (a.toNat - 0x200) / 16 = sl.toNat := by omega
  have hword : a.toNat % 16 / 4 = i := by omega
  have hl : locate s.params a.toNat = .counters sl i := by
    rw [locate_counters hwf (by omega) (by omega), hslot, hword, BitVec.ofNat_toNat, BitVec.setWidth_eq]
  have hlegal : legal s.params a .word = true := by rw [legal, hl]; rfl
  rw [State.memRead, if_pos hlegal, hl]

theorem memRead_reading (hwf : s.params.wf = true) (hsl : sl.toNat < s.params.maxSlots) (hi : i < 4)
    (ha : a.toNat = 0x400 + 4 * i + 16 * sl.toNat) : s.memRead a .word = (s.slot sl).readingWord i := by
  have hslot : (a.toNat - 0x400) / 16 = sl.toNat := by omega
  have hword : a.toNat % 16 / 4 = i := by omega
  have hl : locate s.params a.toNat = .reading sl i := by
    rw [locate_reading hwf (by omega) (by omega), hslot, hword, BitVec.ofNat_toNat, BitVec.setWidth_eq]
  have hlegal : legal s.params a .word = true := by rw [legal, hl]; rfl
  rw [State.memRead, if_pos hlegal, hl]

end SlotWords

/-- Settles O60: each word read is the register's or the slot's, whose fields the lemmas above name. -/
theorem resultRegisterFields : Obligations.ResultRegisterFields := by
  unfold Obligations.ResultRegisterFields
  refine ⟨⟨rfl, rfl, rfl⟩, fun s => ?_⟩
  have hstatus : s.memRead 0x0008 .word = s.statusWord := memRead_reg s (r := .status) rfl
  have herr : s.memRead 0x000C .word = s.errWord := memRead_reg s (r := .err) rfl
  have hrej : s.memRead 0x0010 .word = 0#16 ++ s.rej.op ++ s.rej.code.byte :=
    memRead_reg s (r := .rej) rfl
  have hchk : s.memRead 0x001C .word = 0#16 ++ s.chk.rcvd ++ s.chk.calcd := memRead_reg s (r := .chk) rfl
  obtain ⟨b0, b1, b2, b3, b4, b5, b6, b7, b11, b15⟩ := statusWord_bits s
  obtain ⟨hrstate, hsstate, hslot, hzero, hatt⟩ := statusWord_fields s
  obtain ⟨hrejCode, hrejOp, hrejZero⟩ := zeros_append_bytes s.rej.op s.rej.code.byte
  obtain ⟨hcalcd, hrcvd, hchkZero⟩ := zeros_append_bytes s.chk.rcvd s.chk.calcd
  rw [hstatus, herr, hrej, hchk, errWord_eq_eventWord]
  refine ⟨b0, b1, b2, b3, b4, b5, b6, b7, hrstate, b11, hsstate, b15, hslot, hzero, hatt,
    eventWord_code _ _ _ _, eventWord_sub _ _ _ _, eventWord_slot _ _ _ _, eventWord_kind _ _ _ _,
    eventWord_zeros _ _ _ _, hrejCode, hrejOp, hrejZero, hcalcd, hrcvd, hchkZero, fun sl hwf hsl => ?_⟩
  have hretry : s.memRead (0x020C + 16 * sl.setWidth 16) .word = (s.slot sl).retryWord :=
    memRead_counters (i := 3) hwf hsl (by decide) (toNat_slotWord _ (by decide) sl)
  obtain ⟨hsnAtt, hmeasAtt, hsnState, hmeasState⟩ := retryWord_fields (s.slot sl)
  rw [hretry]
  exact ⟨memRead_counters (i := 0) hwf hsl (by decide) (toNat_slotWord _ (by decide) sl),
    memRead_counters (i := 1) hwf hsl (by decide) (toNat_slotWord _ (by decide) sl),
    memRead_counters (i := 2) hwf hsl (by decide) (toNat_slotWord _ (by decide) sl),
    hsnAtt, hmeasAtt, hsnState, hmeasState, retryWord_zeros _,
    memRead_reading (i := 0) hwf hsl (by decide) (toNat_slotWord _ (by decide) sl),
    memRead_reading (i := 1) hwf hsl (by decide) (toNat_slotWord _ (by decide) sl),
    memRead_reading (i := 2) hwf hsl (by decide) (toNat_slotWord _ (by decide) sl),
    memRead_reading (i := 3) hwf hsl (by decide) (toNat_slotWord _ (by decide) sl)⟩

end Sys2Proof.Machine
end
